-- ==== Sys2Proof/Word.lean ====
section
/-! DEFINITION. The values of the block, each an unsigned bit vector of a stated width (00_scope.md R5, R7, table
A4-1), and the two bit numberings of R8. -/

namespace Sys2Proof

/-- One byte of a Block or MasterKey outside the block (20_memory.md R44). -/
abbrev Byte := BitVec 8

/-- The command word `CMD` (30_encoding.md R60). -/
abbrev CmdWord := BitVec 8

/-- A Block: 64 bits, position 1 the most significant (30_encoding.md R67). -/
abbrev Block := BitVec 64

/-- A MasterKey: 64 bits, any value (30_encoding.md R68). -/
abbrev MasterKey := BitVec 64

/-- A RoundKey: 48 bits (30_encoding.md R69). -/
abbrev RoundKey := BitVec 48

/-- A half of the running block state, `left` or `right` (table A4-1, HALF_W). -/
abbrev Half := BitVec 32

/-- A half of the key-schedule state, `C` or `D` (table A4-1, CD_W). -/
abbrev KeyHalf := BitVec 28

/-- The RoundKeySet: exactly 16 RoundKeys, indexed 0..15 (10_state.md R20). -/
abbrev RoundKeySet := Vector RoundKey 16

/-- The bit of `v` at position `p`, positions counted 1..w from the most significant bit: index `w - p`
(00_scope.md R8). -/
def atPosition {w : Nat} (v : BitVec w) (p : Nat) : Bool := v.getLsbD (w - p)

end Sys2Proof
end

