-- ==== Sys2Proof/Config.lean ====
section
/-! DEFINITION. What is fixed for the block (00_scope.md tables A4-1 and A4-2). The widths of table A4-1 are the
widths of the types of Word.lean; the numbers a rule reads are here. `N_ENGINES = 1` and `REKEY_ALLOWED = true` are
built into State and LOADKEY (log 14, log 16). The OPEN parameters HANDSHAKE, HOST_BYTE_SWAP, BUS_ATTACHMENT and
LATENCY are read by no rule of the spec (R6), so nothing of the block takes them (log 13). The block leaves no value
in its state undefined, so there is no free value here (log 3). -/

namespace Sys2Proof.Config

/-- `RC_MAX`: the largest legal round count of PROCESS (table A4-2). -/
def rcMax : Nat := 16

/-- `ROUNDS`: the number of RoundKeys in a RoundKeySet (table A4-1). -/
def rounds : Nat := 16

end Sys2Proof.Config
end

