-- ==== Sys2Proof/Syntax.lean ====
section
/-! DEFINITION. The commands of the block (30_encoding.md R61, spec/opcode_table.json). PROCESS fills two rows of the
table and is one instruction (log 17). The 64-bit operands travel on the ports, not in the command word (R63), so
they are not part of the syntax. -/

namespace Sys2Proof

/-- The four commands. -/
inductive Instr where
  /-- LOADKEY: bind the MasterKey on `KEYIN` (45_engine_commands.md R150). -/
  | loadkey
  /-- ENCRYPT: transform `DIN` with the stored keys in forward order (R151). -/
  | encrypt
  /-- DECRYPT: transform `DIN` with the stored keys in reverse order (R152). -/
  | decrypt
  /-- PROCESS: transform `DIN` under `KEYIN`; `enc` is `CMD[5]`, `rc` is `CMD[4:0]` (R153). -/
  | process (enc : Bool) (rc : BitVec 5)
deriving DecidableEq, Repr

/-- The two kinds of reserved command word (30_encoding.md R65). -/
inductive Reserved where
  /-- `OP` is 0, 1 or 2 and `ENC` or `RC` is not zero. -/
  | nonzeroFields
  /-- `OP` is 3 and `RC` is 17 to 31. -/
  | roundCountAbove16
deriving DecidableEq, Repr

/-- The outcomes of decoding a command word (30_encoding.md R62). -/
inductive Decoded where
  | instr (i : Instr)
  | reserved (why : Reserved)
deriving DecidableEq, Repr

end Sys2Proof
end

