-- ==== Sys2Proof/WellFormed.lean ====
section
/-! DEFINITION. The one check an instruction must pass: PROCESS has a round count of 0 to 16 (30_encoding.md R60,
R61). -/

namespace Sys2Proof

/-- The instruction has a legal command word. -/
def Instr.wellFormed : Instr → Bool
  | .loadkey => true
  | .encrypt => true
  | .decrypt => true
  | .process _ rc => decide (rc.toNat ≤ Config.rcMax)

end Sys2Proof
end

