-- ==== Sys2Proof/Decode.lean ====
section
/-! DEFINITION. Decoding of the command word, total on all 256 words and rejecting a reserved word by its kind
(30_encoding.md R60 to R62, R65), and the encoder. -/

namespace Sys2Proof

/-- Field `OP = CMD[7:6]` (R60). -/
def opField (w : CmdWord) : BitVec 2 := w.extractLsb' 6 2

/-- Field `ENC = CMD[5]` (R60). -/
def encField (w : CmdWord) : Bool := w.getLsbD 5

/-- Field `RC = CMD[4:0]` (R60). -/
def rcField (w : CmdWord) : BitVec 5 := w.extractLsb' 0 5

/-- The fields of PROCESS, `CMD[5:0]`, which every other command needs to be zero (R60). -/
def lowField (w : CmdWord) : BitVec 6 := w.extractLsb' 0 6

/-- A word with `OP` 0, 1 or 2 is its command when `CMD[5:0] = 0`, else reserved (R62). -/
def decodePlain (i : Instr) (w : CmdWord) : Decoded :=
  if lowField w = 0 then .instr i else .reserved .nonzeroFields

/-- `decode(CMD)` of R62. It reads the command word only. -/
def decode (w : CmdWord) : Decoded :=
  if opField w = 0 then decodePlain .loadkey w
  else if opField w = 1 then decodePlain .encrypt w
  else if opField w = 2 then decodePlain .decrypt w
  else if (rcField w).toNat ≤ Config.rcMax then .instr (.process (encField w) (rcField w))
  else .reserved .roundCountAbove16

/-- The command word of an instruction: `OP`, `ENC`, `RC` from the top (R60, R61). A well-formed instruction gets a
legal word. -/
def encode : Instr → CmdWord
  | .loadkey => 0x00#8
  | .encrypt => 0x40#8
  | .decrypt => 0x80#8
  | .process enc rc => 3#2 ++ BitVec.ofBool enc ++ rc

/-- The instruction of a decoding, if it is one. -/
def Decoded.toOption : Decoded → Option Instr
  | .instr i => some i
  | .reserved _ => none

/-- The command word made of the `nbits` low bits of `w`, the bits above them zero. -/
def tableWord (nbits w : Nat) : CmdWord := BitVec.ofNat 8 (w % 2 ^ nbits)

/-- The instruction the decoder reads from a word numbered as spec/opcode_table.json numbers it. Every command is one
8-bit word (R60, R66). -/
def decodeTableWord (nbits w : Nat) : Option Instr := (decode (tableWord nbits w)).toOption

end Sys2Proof
end

