-- ==== Sys2Proof/Machine/State.lean ====
section
/-! DEFINITION. The state of the block and of its host interface (10_state.md; 20_memory.md R41 to R43;
70_reset_and_hazards.md R198, R200), and the state after reset (R33). All of it is plain data. -/

namespace Sys2Proof.Machine

/-- The two-state machine that `READY` encodes (10_state.md R23), with the round-key registers where they hold values
(R21: in `uninit` no register holds one). This is the state type of 10_state.md section 1. -/
inductive Engine where
  /-- Uninitialized: `READY = 0`, no `K[i]` holds a value. -/
  | uninit
  /-- Ready: `READY = 1`, `K[r]` holds RoundKey `r`. -/
  | ready (k : RoundKeySet)
deriving DecidableEq, Repr

/-- The input ports, sampled together at the start of a command (20_memory.md R41). -/
structure Ports where
  /-- The command word. -/
  cmd : CmdWord
  /-- The Block to transform. -/
  din : Block
  /-- The MasterKey. -/
  keyin : MasterKey
deriving DecidableEq, Repr

/-- A response code (60_exceptions.md R170). Code 3 is never produced and has no constructor. -/
inductive Resp where
  | ok
  | notReady
  | illegalCmd
deriving DecidableEq, Repr

/-- The two faults a command can raise (60_exceptions.md R171, R172). The block goes on after one (R175). -/
inductive CmdFault where
  /-- ENCRYPT or DECRYPT with `READY = 0`. -/
  | notReady
  /-- A reserved command word. -/
  | illegalCmd
deriving DecidableEq, Repr

/-- What the host can do to the block (70_reset_and_hazards.md R200). -/
inductive HostMove where
  /-- Present a command transaction (20_memory.md R43). -/
  | command (p : Ports)
  /-- Read the `STATUS` output (10_state.md R25). -/
  | readStatus
  /-- Apply the `RESET` input (R190). -/
  | reset
deriving DecidableEq, Repr

/-- What the block gives the host for one move (R198, R200). -/
inductive Answer where
  /-- The end of a transaction: `RESP`, and `DOUT` where the command delivers data (20_memory.md R42). -/
  | response (resp : Resp) (dout : Option Block)
  /-- The value of `STATUS`. -/
  | status (word : BitVec 2)
deriving DecidableEq, Repr

/-- The whole machine: the architectural state of one engine (10_state.md section 1) and the host interface. -/
structure State where
  /-- `READY` and `K[0..15]` (R20, R21, R23). -/
  engine : Engine
  /-- `ERR`, the sticky fault flag (R24). -/
  err : Bool
  /-- The input ports as the host last drove them (20_memory.md R41). They are wires, no storage of the block. -/
  ports : Ports
  /-- The host's moves that the block has not yet performed, the next one first (10_state.md R27). -/
  pending : List HostMove
  /-- What the host was given so far, oldest first (70_reset_and_hazards.md R198). -/
  answers : List Answer
deriving DecidableEq, Repr

/-- The reasons the machine stops. The spec gives none: every step ends and the block can always take the next command
(45_engine_commands.md R154), and the two faults of the spec are responses after which it goes on (60_exceptions.md
R175). So nothing raises a stop; the type is closed and empty, which is safe. -/
inductive Fault where
deriving DecidableEq, Repr

/-- The reasons an instruction gets no meaning. -/
inductive Refusal where
  /-- Raised by an arm of `exec` that has no meaning yet; safe. No arm raises it. -/
  | notModelled (mnemonic : String)
deriving DecidableEq, Repr

/-- The input ports where nothing has driven them yet. DESIGN CHOICE, unsafe (log 4): a port has no reset value; every
transaction drives the ports before a command reads them. -/
def Ports.undriven : Ports := ⟨0, 0, 0⟩

/-- The machine right after reset (10_state.md R33): `READY = 0`, `ERR = 0`, no `K[i]` holds a value; the host has
presented nothing and was given nothing. -/
def State.reset : State where
  engine := .uninit
  err := false
  ports := Ports.undriven
  pending := []
  answers := []

end Sys2Proof.Machine
end

