-- ==== Sys2Proof/Machine/Flags.lean ====
section
/-! DEFINITION. The status bits `READY` and `ERR`, the `STATUS` output and the response codes (10_state.md R23 to R26;
60_exceptions.md R170). There are no other flags. -/

namespace Sys2Proof.Machine

/-- `READY` (R23). -/
def State.ready (s : State) : Bool :=
  match s.engine with
  | .uninit => false
  | .ready _ => true

/-- `STATUS`: bit 0 is `READY`, bit 1 is `ERR` (R25). -/
def State.status (s : State) : BitVec 2 := BitVec.ofBool s.err ++ BitVec.ofBool s.ready

/-- `ERR <- 1` (R24). -/
def setErr (s : State) : State := { s with err := true }

/-- The 2-bit code on `RESP` (60_exceptions.md R170). -/
def Resp.code : Resp → BitVec 2
  | .ok => 0
  | .notReady => 1
  | .illegalCmd => 2

/-- The response that reports a fault (R170). -/
def CmdFault.resp : CmdFault → Resp
  | .notReady => .notReady
  | .illegalCmd => .illegalCmd

end Sys2Proof.Machine
end

