-- ==== Sys2Proof/Machine/Tables.lean ====
section
/-! DEFINITION. The Table Store (40_table_store.md R80 to R98): constants, written as the spec lists them, in output
order, entries 1-based from the most significant input bit. They are no state (10_state.md R29). The spec marks the
values of all tables but SHIFTS as general knowledge (log 15). -/

namespace Sys2Proof.Machine

/-- A PermutationTable (R80) with its two widths. Entries outside 1..`win` cannot be written
(93_implementation_defined.md U8). -/
structure PermTable (win wout : Nat) where
  /-- `entries[i]` is the input position that feeds output position `i + 1`. -/
  entries : List Nat
  length_eq : entries.length = wout
  inRange : ∀ q ∈ entries, 1 ≤ q ∧ q ≤ win

/-- Table `IP`, the initial permutation (R81). -/
def tableIP : PermTable 64 64 where
  entries :=
    [58, 50, 42, 34, 26, 18, 10,  2,
    60, 52, 44, 36, 28, 20, 12,  4,
    62, 54, 46, 38, 30, 22, 14,  6,
    64, 56, 48, 40, 32, 24, 16,  8,
    57, 49, 41, 33, 25, 17,  9,  1,
    59, 51, 43, 35, 27, 19, 11,  3,
    61, 53, 45, 37, 29, 21, 13,  5,
    63, 55, 47, 39, 31, 23, 15,  7]
  length_eq := by decide
  inRange := by decide

/-- Table `FP`, the final permutation (R82). -/
def tableFP : PermTable 64 64 where
  entries :=
    [40,  8, 48, 16, 56, 24, 64, 32,
    39,  7, 47, 15, 55, 23, 63, 31,
    38,  6, 46, 14, 54, 22, 62, 30,
    37,  5, 45, 13, 53, 21, 61, 29,
    36,  4, 44, 12, 52, 20, 60, 28,
    35,  3, 43, 11, 51, 19, 59, 27,
    34,  2, 42, 10, 50, 18, 58, 26,
    33,  1, 41,  9, 49, 17, 57, 25]
  length_eq := by decide
  inRange := by decide

/-- Table `E`, the expansion permutation; row `g` feeds S-box `g` (R83). -/
def tableE : PermTable 32 48 where
  entries :=
    [32,  1,  2,  3,  4,  5,
     4,  5,  6,  7,  8,  9,
     8,  9, 10, 11, 12, 13,
    12, 13, 14, 15, 16, 17,
    16, 17, 18, 19, 20, 21,
    20, 21, 22, 23, 24, 25,
    24, 25, 26, 27, 28, 29,
    28, 29, 30, 31, 32,  1]
  length_eq := by decide
  inRange := by decide

/-- Table `P`, the output permutation of the round function (R84). -/
def tableP : PermTable 32 32 where
  entries :=
    [16,  7, 20, 21,
    29, 12, 28, 17,
     1, 15, 23, 26,
     5, 18, 31, 10,
     2,  8, 24, 14,
    32, 27,  3,  9,
    19, 13, 30,  6,
    22, 11,  4, 25]
  length_eq := by decide
  inRange := by decide

/-- Table `PC1`, permuted choice 1 (R85). -/
def tablePC1 : PermTable 64 56 where
  entries :=
    [57, 49, 41, 33, 25, 17,  9,
     1, 58, 50, 42, 34, 26, 18,
    10,  2, 59, 51, 43, 35, 27,
    19, 11,  3, 60, 52, 44, 36,
    63, 55, 47, 39, 31, 23, 15,
     7, 62, 54, 46, 38, 30, 22,
    14,  6, 61, 53, 45, 37, 29,
    21, 13,  5, 28, 20, 12,  4]
  length_eq := by decide
  inRange := by decide

/-- Table `PC2`, permuted choice 2, read on `C ‖ D` (R86). -/
def tablePC2 : PermTable 56 48 where
  entries :=
    [14, 17, 11, 24,  1,  5,
     3, 28, 15,  6, 21, 10,
    23, 19, 12,  4, 26,  8,
    16,  7, 27, 20, 13,  2,
    41, 52, 31, 37, 47, 55,
    30, 40, 51, 45, 33, 48,
    44, 49, 39, 56, 34, 53,
    46, 42, 50, 36, 29, 32]
  length_eq := by decide
  inRange := by decide

/-- `SHIFTS`, the rotation amount of each key-schedule round (R87). -/
def shifts : List Nat := [1, 1, 2, 2, 2, 2, 2, 2, 1, 2, 2, 2, 2, 2, 2, 1]

/-- An S-box: 4 rows of 16 cells of 4 bits (R88). -/
abbrev SBox := Vector (Vector (BitVec 4) 16) 4

/-- Box `S[0]` (R89). -/
def sbox0 : SBox :=
  #v[#v[14, 4, 13, 1, 2, 15, 11, 8, 3, 10, 6, 12, 5, 9, 0, 7],
    #v[0, 15, 7, 4, 14, 2, 13, 1, 10, 6, 12, 11, 9, 5, 3, 8],
    #v[4, 1, 14, 8, 13, 6, 2, 11, 15, 12, 9, 7, 3, 10, 5, 0],
    #v[15, 12, 8, 2, 4, 9, 1, 7, 5, 11, 3, 14, 10, 0, 6, 13]]

/-- Box `S[1]` (R90). -/
def sbox1 : SBox :=
  #v[#v[15, 1, 8, 14, 6, 11, 3, 4, 9, 7, 2, 13, 12, 0, 5, 10],
    #v[3, 13, 4, 7, 15, 2, 8, 14, 12, 0, 1, 10, 6, 9, 11, 5],
    #v[0, 14, 7, 11, 10, 4, 13, 1, 5, 8, 12, 6, 9, 3, 2, 15],
    #v[13, 8, 10, 1, 3, 15, 4, 2, 11, 6, 7, 12, 0, 5, 14, 9]]

/-- Box `S[2]` (R91). -/
def sbox2 : SBox :=
  #v[#v[10, 0, 9, 14, 6, 3, 15, 5, 1, 13, 12, 7, 11, 4, 2, 8],
    #v[13, 7, 0, 9, 3, 4, 6, 10, 2, 8, 5, 14, 12, 11, 15, 1],
    #v[13, 6, 4, 9, 8, 15, 3, 0, 11, 1, 2, 12, 5, 10, 14, 7],
    #v[1, 10, 13, 0, 6, 9, 8, 7, 4, 15, 14, 3, 11, 5, 2, 12]]

/-- Box `S[3]` (R92). -/
def sbox3 : SBox :=
  #v[#v[7, 13, 14, 3, 0, 6, 9, 10, 1, 2, 8, 5, 11, 12, 4, 15],
    #v[13, 8, 11, 5, 6, 15, 0, 3, 4, 7, 2, 12, 1, 10, 14, 9],
    #v[10, 6, 9, 0, 12, 11, 7, 13, 15, 1, 3, 14, 5, 2, 8, 4],
    #v[3, 15, 0, 6, 10, 1, 13, 8, 9, 4, 5, 11, 12, 7, 2, 14]]

/-- Box `S[4]` (R93). -/
def sbox4 : SBox :=
  #v[#v[2, 12, 4, 1, 7, 10, 11, 6, 8, 5, 3, 15, 13, 0, 14, 9],
    #v[14, 11, 2, 12, 4, 7, 13, 1, 5, 0, 15, 10, 3, 9, 8, 6],
    #v[4, 2, 1, 11, 10, 13, 7, 8, 15, 9, 12, 5, 6, 3, 0, 14],
    #v[11, 8, 12, 7, 1, 14, 2, 13, 6, 15, 0, 9, 10, 4, 5, 3]]

/-- Box `S[5]` (R94). -/
def sbox5 : SBox :=
  #v[#v[12, 1, 10, 15, 9, 2, 6, 8, 0, 13, 3, 4, 14, 7, 5, 11],
    #v[10, 15, 4, 2, 7, 12, 9, 5, 6, 1, 13, 14, 0, 11, 3, 8],
    #v[9, 14, 15, 5, 2, 8, 12, 3, 7, 0, 4, 10, 1, 13, 11, 6],
    #v[4, 3, 2, 12, 9, 5, 15, 10, 11, 14, 1, 7, 6, 0, 8, 13]]

/-- Box `S[6]` (R95). -/
def sbox6 : SBox :=
  #v[#v[4, 11, 2, 14, 15, 0, 8, 13, 3, 12, 9, 7, 5, 10, 6, 1],
    #v[13, 0, 11, 7, 4, 9, 1, 10, 14, 3, 5, 12, 2, 15, 8, 6],
    #v[1, 4, 11, 13, 12, 3, 7, 14, 10, 15, 6, 8, 0, 5, 9, 2],
    #v[6, 11, 13, 8, 1, 4, 10, 7, 9, 5, 0, 15, 14, 2, 3, 12]]

/-- Box `S[7]` (R96). -/
def sbox7 : SBox :=
  #v[#v[13, 2, 8, 4, 6, 15, 11, 1, 10, 9, 3, 14, 5, 0, 12, 7],
    #v[1, 15, 13, 8, 10, 3, 7, 4, 12, 5, 6, 11, 0, 14, 9, 2],
    #v[7, 11, 4, 1, 9, 12, 14, 2, 0, 6, 10, 13, 15, 3, 5, 8],
    #v[2, 1, 14, 7, 4, 10, 8, 13, 15, 12, 9, 0, 3, 5, 6, 11]]

/-- The SBoxTable `S[0..7]` (R88). -/
def sboxes : Vector SBox 8 :=
  #v[sbox0, sbox1, sbox2, sbox3, sbox4, sbox5, sbox6, sbox7]

end Sys2Proof.Machine
end

