-- ==== Sys2Proof/Machine/Cipher.lean ====
section
/-! DEFINITION. The pure functions of the cipher (00_scope.md R14): `permute`, `rotl28`, `key_schedule`, `f`,
`transform` (files 41 to 44 of spec/). Each is written as its rule states it. -/

namespace Sys2Proof.Machine

/-! ### The bit permutation primitive (41_permute.md) -/

/-- `permute(value, T, W_in)` (R100): output position `i + 1`, from the top, is input position `T[i]`. -/
def permute {win wout : Nat} (T : PermTable win wout) (v : BitVec win) : BitVec wout :=
  (BitVec.ofBoolListBE (T.entries.map fun q => atPosition v q)).cast
    ((List.length_map _).trans T.length_eq)

/-! ### The key schedule (42_key_schedule.md) -/

/-- `rotl28(v, n)` (R110, R10): rotation left within 28 bits. -/
def rotl28 (v : KeyHalf) (n : Nat) : KeyHalf := (v <<< n) ||| (v >>> (28 - n))

/-- The loop of `key_schedule` (R111): for each shift, rotate both halves on top of the earlier rotations, then PC-2
of `C ‖ D`. -/
def scheduleRounds : List Nat → KeyHalf → KeyHalf → List RoundKey
  | [], _, _ => []
  | n :: ns, c, d =>
    permute tablePC2 (rotl28 c n ++ rotl28 d n) :: scheduleRounds ns (rotl28 c n) (rotl28 d n)

/-- The half `C` straight out of PC-1: `s[55:28]` (R111). -/
def initialC (mk : MasterKey) : KeyHalf := (permute tablePC1 mk).extractLsb' 28 28

/-- The half `D` straight out of PC-1: `s[27:0]` (R111). -/
def initialD (mk : MasterKey) : KeyHalf := (permute tablePC1 mk).extractLsb' 0 28

/-- One RoundKey for each shift. -/
theorem scheduleRounds_length (ns : List Nat) (c d : KeyHalf) :
    (scheduleRounds ns c d).length = ns.length := by
  induction ns generalizing c d with
  | nil => rfl
  | cons n ns ih => exact congrArg (· + 1) (ih _ _)

/-- `key_schedule(mk)` (R111): exactly sixteen RoundKeys. -/
def keySchedule (mk : MasterKey) : RoundKeySet :=
  ⟨⟨scheduleRounds shifts (initialC mk) (initialD mk)⟩, scheduleRounds_length shifts _ _⟩

/-! ### The round function (43_round_function.md) -/

/-- `six_g`, group `g` of the 48-bit value: `x[47-6g : 42-6g]` (R122). -/
def sixBits (x : BitVec 48) (g : Fin 8) : BitVec 6 := x.extractLsb' (42 - 6 * g.val) 6

/-- `row_g` (R123): the first bit of the group is the high bit, the last the low bit. -/
def sboxRow (six : BitVec 6) : Fin 4 := (BitVec.ofBool (six.getLsbD 5) ++ BitVec.ofBool (six.getLsbD 0)).toFin

/-- `col_g = six[4:1]` (R123). -/
def sboxCol (six : BitVec 6) : Fin 16 := (six.extractLsb' 1 4).toFin

/-- The cell of box `g` for a group: `S[g][row][col]` (R123), which is `SD[g][v]` of R128. -/
def sboxCell (g : Fin 8) (six : BitVec 6) : BitVec 4 := sboxes[g][sboxRow six][sboxCol six]

/-- `n_g`, the nibble of group `g` (R123). -/
def nibble (x : BitVec 48) (g : Fin 8) : BitVec 4 := sboxCell g (sixBits x g)

/-- The substitution step: `n_0 ‖ n_1 ‖ … ‖ n_7`, `n_0` the most significant (R123). -/
def substitute (x : BitVec 48) : Half :=
  nibble x 0 ++ nibble x 1 ++ nibble x 2 ++ nibble x 3 ++ nibble x 4 ++ nibble x 5 ++ nibble x 6 ++ nibble x 7

/-- `f(r, k)` (R124): expansion (R120), key mixing (R121), substitution (R122, R123), output permutation. -/
def roundF (r : Half) (k : RoundKey) : Half :=
  permute tableP (substitute (permute tableE r ^^^ k))

/-! ### The block transform (44_block_transform.md) -/

/-- The loop of `transform` (R135 step 3) over the keys in the given order: `newRight = f(right, key) ^ left`, then
`left = right`, `right = newRight`. -/
def feistel : List RoundKey → Half → Half → Half × Half
  | [], left, right => (left, right)
  | k :: ks, left, right => feistel ks right (roundF right k ^^^ left)

/-- The pre-output of the loop's last halves, and FP (R135 steps 4 and 5). -/
def finish (halves : Half × Half) : Block := permute tableFP (halves.2 ++ halves.1)

/-- `L_0`: the high half of the block after IP (R135 steps 1 and 2). -/
def initialLeft (block : Block) : Half := (permute tableIP block).extractLsb' 32 32

/-- `R_0`: the low half of the block after IP (R135 steps 1 and 2). -/
def initialRight (block : Block) : Half := (permute tableIP block).extractLsb' 0 32

/-- `transform(block, keys)` (R135), for a key sequence of any length. -/
def transform (block : Block) (keys : List RoundKey) : Block :=
  finish (feistel keys (initialLeft block) (initialRight block))

/-- `encrypt_block(ks, block)`: the keys in forward order 0..15 (R137). -/
def encryptBlock (ks : RoundKeySet) (block : Block) : Block := transform block ks.toList

/-- `decrypt_block(ks, block)`: the same transform with the keys in reverse order 15..0 (R137). -/
def decryptBlock (ks : RoundKeySet) (block : Block) : Block := transform block ks.toList.reverse

end Sys2Proof.Machine
end

