-- ==== Sys2Proof/Machine/Operands.lean ====
section
/-! DEFINITION. Operand assembly (30_encoding.md R63, R64): the operands come whole from the ports and the command
word. -/

namespace Sys2Proof.Machine

/-- `block = DIN[63:0]` (R63). -/
def State.block (s : State) : Block := s.ports.din

/-- `masterKey = KEYIN[63:0]` (R63). -/
def State.masterKey (s : State) : MasterKey := s.ports.keyin

/-- `roundCount = zext(CMD[4:0])` (R63). -/
def roundCount (rc : BitVec 5) : Nat := rc.toNat

/-- `ordered` of PROCESS (45_engine_commands.md R153): the schedule forward for `ENC = 1`, reversed for `ENC = 0`. -/
def orderedKeys (enc : Bool) (ks : RoundKeySet) : List RoundKey :=
  if enc then ks.toList else ks.toList.reverse

/-- `take(ordered, RC)`: the keys PROCESS uses (R153). -/
def processKeys (enc : Bool) (rc : BitVec 5) (mk : MasterKey) : List RoundKey :=
  (orderedKeys enc (keySchedule mk)).take (roundCount rc)

end Sys2Proof.Machine
end

