-- ==== Sys2Proof/Machine/Ops.lean ====
section
/-! DEFINITION. The named operations over the state: reading the round-key registers, binding them, ending a
transaction, raising a fault (60_exceptions.md R173), reset (70_reset_and_hazards.md R190), and the host's moves. -/

namespace Sys2Proof.Machine

/-- `K[r]`: its value where it holds one (10_state.md R20, R21). -/
def State.roundKey (s : State) (r : Fin 16) : Option RoundKey :=
  match s.engine with
  | .uninit => none
  | .ready k => some k[r]

/-- The writes of LOADKEY: all sixteen registers and `READY <- 1`, one update (45_engine_commands.md R150). -/
def bindKeys (k : RoundKeySet) (s : State) : State := { s with engine := .ready k }

/-- The end of a transaction: the block delivers `RESP`, and `DOUT` where there is data (20_memory.md R42, R43). -/
def deliver (r : Resp) (d : Option Block) (s : State) : State :=
  { s with answers := s.answers ++ [.response r d] }

/-- `raise <Fault>` (00_scope.md R13, 60_exceptions.md R173): the response carries the code, `ERR <- 1`, nothing else
changes, no data. There is no return from it (R175). -/
def raise (f : CmdFault) (s : State) : State := deliver f.resp none (setErr s)

/-- What ENCRYPT and DECRYPT share (R151, R152): NOT_READY when `READY = 0`, else the cipher under the stored keys on
`DIN`, delivered with `OK`. -/
def withStoredKeys (cipher : RoundKeySet → Block → Block) (s : State) : State :=
  match s.engine with
  | .uninit => raise .notReady s
  | .ready k => deliver .ok (some (cipher k s.block)) s

/-- The host drives the input ports (20_memory.md R41). -/
def present (p : Ports) (s : State) : State := { s with ports := p }

/-- `RESET` (70_reset_and_hazards.md R190, 10_state.md R33): `READY = 0`, `ERR = 0`, every `K[i]` without value. The
host's ports, moves and answers are not the block's (log 8). -/
def applyReset (s : State) : State := { s with engine := .uninit, err := false }

/-- A read of `STATUS`: no side effect on the block (10_state.md R25). -/
def answerStatus (s : State) : State := { s with answers := s.answers ++ [.status s.status] }

/-- The head of the host's moves, taken off the list (10_state.md R27). -/
def nextMove (s : State) : Option (HostMove × State) :=
  match s.pending with
  | [] => none
  | m :: rest => some (m, { s with pending := rest })

end Sys2Proof.Machine
end

