-- ==== Sys2Proof/Machine/Engine.lean ====
section
/-! DEFINITION. The commands of the stored key: LOADKEY, ENCRYPT, DECRYPT (45_engine_commands.md R150 to R152). -/

namespace Sys2Proof.Machine

/-- LOADKEY (R150): the schedule of `KEYIN` into `K[0..15]`, `READY <- 1`, `OK`, no data; in either state. -/
def execLoadkey (s : State) : Host.Outcome State Fault Refusal :=
  .next (deliver .ok none (bindKeys (keySchedule s.masterKey) s))

/-- ENCRYPT (R151): the stored keys in forward order. -/
def execEncrypt (s : State) : Host.Outcome State Fault Refusal :=
  .next (withStoredKeys encryptBlock s)

/-- DECRYPT (R152): the stored keys in reverse order. -/
def execDecrypt (s : State) : Host.Outcome State Fault Refusal :=
  .next (withStoredKeys decryptBlock s)

end Sys2Proof.Machine
end

