-- ==== Sys2Proof/Machine/Process.lean ====
section
/-! DEFINITION. The stateless command PROCESS (45_engine_commands.md R153). -/

namespace Sys2Proof.Machine

/-- PROCESS (R153): the transform of `DIN` under the first `RC` keys of a private schedule of `KEYIN`, delivered with
`OK`; the engine is neither read nor written. A round count above 16 has only a reserved word, whose answer is
ILLEGAL_CMD (30_encoding.md R65, log 12); decoding never yields it. -/
def execProcess (enc : Bool) (rc : BitVec 5) (s : State) : Host.Outcome State Fault Refusal :=
  if roundCount rc ≤ Config.rcMax then
    .next (deliver .ok (some (transform s.block (processKeys enc rc s.masterKey))) s)
  else .next (raise .illegalCmd s)

end Sys2Proof.Machine
end

