-- ==== Sys2Proof/Machine/Dispatch.lean ====
section
/-! DEFINITION. One arm per command. -/

namespace Sys2Proof.Machine

/-- The meaning of a decoded command in a state (45_engine_commands.md R150 to R153). -/
def exec (i : Instr) (s : State) : Host.Outcome State Fault Refusal :=
  match i with
  | .loadkey => Sys2Proof.Machine.execLoadkey s
  | .encrypt => Sys2Proof.Machine.execEncrypt s
  | .decrypt => Sys2Proof.Machine.execDecrypt s
  | .process enc rc => Sys2Proof.Machine.execProcess enc rc s

end Sys2Proof.Machine
end

