-- ==== Sys2Proof/Machine/Step.lean ====
section
/-! DEFINITION. One step of the machine: the head of the host's moves (10_state.md R27, 45_engine_commands.md R154,
70_reset_and_hazards.md R200). -/

namespace Sys2Proof.Machine

/-- One command transaction: decode `CMD` first; a reserved word raises ILLEGAL_CMD, any other word performs its
command (R154, 60_exceptions.md R174). -/
def performCommand (s : State) : Host.Outcome State Fault Refusal :=
  match decode s.ports.cmd with
  | .instr i => exec i s
  | .reserved _ => .next (raise .illegalCmd s)

/-- One step. With no move pending the block is idle and keeps its state (60_exceptions.md R179, log 5). -/
def step (s : State) : Host.Outcome State Fault Refusal :=
  match nextMove s with
  | none => .next s
  | some (.command p, t) => performCommand (present p t)
  | some (.readStatus, t) => .next (answerStatus t)
  | some (.reset, t) => .next (applyReset t)

/-- `s` with a transaction of the command word `w` (numbered as spec/opcode_table.json numbers it) as the host's next
move; the data ports keep their values (log 19). -/
def State.withFetchWord (s : State) (nbits w : Nat) : State :=
  { s with pending := .command ⟨tableWord nbits w, s.ports.din, s.ports.keyin⟩ :: s.pending }

end Sys2Proof.Machine
end

