-- ==== Sys2Proof/Machine/Assembler.lean ====
section
/-! DEFINITION. The assembler lines of the spec (30_encoding.md R71), as the host moves they stand for. No line
expands to more than one move and none is an alias. -/

namespace Sys2Proof.Machine

/-- One line of a command sequence (R71). -/
inductive AsmLine where
  | loadkey (key : MasterKey)
  | encrypt (block : Block)
  | decrypt (block : Block)
  /-- `PROCESS block, key, rc, enc` or `… dec`; `rc` must be 0 to 16. -/
  | process (block : Block) (key : MasterKey) (rc : BitVec 5) (enc : Bool)
  /-- `RAW cmd, din, keyin`: any command word. -/
  | raw (cmd : CmdWord) (din : Block) (keyin : MasterKey)
  /-- `RESET`: not a command, the RESET input. -/
  | reset
deriving DecidableEq, Repr

/-- The host move of a line. `idle` is the value on a port the command ignores, which may be any (R64). -/
def AsmLine.move (idle : BitVec 64) : AsmLine → HostMove
  | .loadkey key => .command ⟨encode .loadkey, idle, key⟩
  | .encrypt block => .command ⟨encode .encrypt, block, idle⟩
  | .decrypt block => .command ⟨encode .decrypt, block, idle⟩
  | .process block key rc enc => .command ⟨encode (.process enc rc), block, key⟩
  | .raw cmd din keyin => .command ⟨cmd, din, keyin⟩
  | .reset => .reset

end Sys2Proof.Machine
end

