-- ==== Sys2Proof/Machine/HostBytes.lean ====
section
/-! DEFINITION. Byte order at the boundary of the block (20_memory.md R44), and the wrapper's byte swap whose use is
the OPEN parameter HOST_BYTE_SWAP (R45, log 13). The block itself swaps nothing; no step reads this file. -/

namespace Sys2Proof.Machine

/-- The port value of the bytes `b0, ..., b7`, `b0` the first transmitted: a big-endian integer (R44). -/
def valueOfBytes (b : Vector Byte 8) : BitVec 64 :=
  b[0] ++ b[1] ++ b[2] ++ b[3] ++ b[4] ++ b[5] ++ b[6] ++ b[7]

/-- The bytes of a port value, first transmitted first (R44). -/
def bytesOfValue (v : BitVec 64) : Vector Byte 8 :=
  #v[v.extractLsb' 56 8, v.extractLsb' 48 8, v.extractLsb' 40 8, v.extractLsb' 32 8,
    v.extractLsb' 24 8, v.extractLsb' 16 8, v.extractLsb' 8 8, v.extractLsb' 0 8]

/-- The integer a little-endian host holds for eight bytes of its memory (R45). -/
def littleEndianValue (b : Vector Byte 8) : BitVec 64 := valueOfBytes b.reverse

/-- The byte-reversed value. -/
def byteSwap (v : BitVec 64) : BitVec 64 := valueOfBytes (bytesOfValue v).reverse

/-- What the wrapper puts on a port for a host value, HOST_BYTE_SWAP given (R45). -/
def wrapValue (hostByteSwap : Bool) (v : BitVec 64) : BitVec 64 := if hostByteSwap then byteSwap v else v

end Sys2Proof.Machine
end

