-- ==== Sys2Proof/Safety.lean ====
section
/-! DEFINITION. What a safe state of the block is, and the terms the statements use: the state invariant (10_state.md
R31), a fault among the answers, and the key that a list of host moves leaves bound (45_engine_commands.md R155). -/

namespace Sys2Proof.Machine

/-- No fault was recorded since the last reset (10_state.md R24). -/
def State.noFaultRecorded (s : State) : Bool := !s.err

/-- The registers hold the schedule of some MasterKey, if they hold anything (R31). -/
def State.KeyBound (s : State) : Prop := ∀ k, s.engine = .ready k → ∃ mk, k = keySchedule mk

/-- The answer reports a fault (60_exceptions.md R170). -/
def Answer.isFault : Answer → Bool
  | .response .ok _ => false
  | .response .notReady _ => true
  | .response .illegalCmd _ => true
  | .status _ => false

/-- A response reports data exactly where it may: data comes with `OK` only (20_memory.md R42). -/
def Answer.dataOnlyWithOk : Answer → Bool
  | .response .ok _ => true
  | .response .notReady d => d.isNone
  | .response .illegalCmd d => d.isNone
  | .status _ => true

/-- The invariant of the machine: R31 for the registers; a recorded fault was reported to the host (60_exceptions.md
R173); no fault carries data. -/
structure State.Inv (s : State) : Prop where
  keyBound : s.KeyBound
  errReported : s.err = true → ∃ a ∈ s.answers, a.isFault = true
  dataOk : ∀ a ∈ s.answers, a.dataOnlyWithOk = true

/-- The MasterKey bound after one more host move: LOADKEY binds `KEYIN`, reset discards the key, every other move
leaves it (R155, 70_reset_and_hazards.md R193). -/
def keyAfter (key : Option MasterKey) : HostMove → Option MasterKey
  | .command p => if p.cmd = 0x00#8 then some p.keyin else key
  | .readStatus => key
  | .reset => none

/-- The `KEYIN` of the latest LOADKEY in a list of moves from reset, with no reset after it. -/
def boundKey (moves : List HostMove) : Option MasterKey := moves.foldl keyAfter none

/-- `A[r] = SHIFTS[0] + ... + SHIFTS[r]` (42_key_schedule.md R112). -/
def totalShift (r : Nat) : Nat := (shifts.take (r + 1)).sum

/-- One entry of the fused table `S∘P` (43_round_function.md R127): box `g` on a group, its nibble put at its place in
the 32 bits, then P. -/
def fusedSP (g : Fin 8) (six : BitVec 6) : Half :=
  permute tableP ((sboxCell g six).setWidth 32 <<< (28 - 4 * g.val))

/-- A round function made of fused tables (R127): the XOR of the eight entries. -/
def fusedRoundF (r : Half) (k : RoundKey) : Half :=
  (List.finRange 8).foldl (fun acc g => acc ^^^ fusedSP g (sixBits (permute tableE r ^^^ k) g)) 0

end Sys2Proof.Machine
end

