-- ==== Sys2Proof/Certificates/Slice0/Obligations.lean ====
section
/-! DEFINITION. The statements for the provers, from the numbered rules of spec/. A docstring names the rule. Where a
rule is one the spec marks as derived from its other rules, the docstring says so and the statement's basis is
'derived'. -/

open Sys2Proof Sys2Proof.Machine

/-! ### Encoding (30_encoding.md) -/

/-- Command words written out bit by bit from R60 and V60 decode to the commands they stand for; reserved words are
rejected. -/
def Obligations.WrittenWordsDecode : Prop :=
  decode 0b00000000#8 = .instr .loadkey ∧
  decode 0b01000000#8 = .instr .encrypt ∧
  decode 0b10000000#8 = .instr .decrypt ∧
  decode 0b11000010#8 = .instr (.process false 2#5) ∧
  decode 0b11010000#8 = .instr (.process false 16#5) ∧
  decode 0b11100001#8 = .instr (.process true 1#5) ∧
  decode 0b11110000#8 = .instr (.process true 16#5) ∧
  decode 0b00000001#8 = .reserved .nonzeroFields ∧
  decode 0b01100000#8 = .reserved .nonzeroFields ∧
  decode 0b10111111#8 = .reserved .nonzeroFields ∧
  decode 0b11010001#8 = .reserved .roundCountAbove16 ∧
  decode 0b11111111#8 = .reserved .roundCountAbove16

/-- R61: every command word selects the row of the opcode map whose match and mask it meets, with the fields of that
row; a word that meets none is reserved; 37 words are legal and 219 reserved. -/
def Obligations.DecodeIsTheOpcodeMap : Prop :=
  (∀ w : CmdWord,
    (decode w = .instr .loadkey ↔ w &&& 0xFF#8 = 0x00#8) ∧
    (decode w = .instr .encrypt ↔ w &&& 0xFF#8 = 0x40#8) ∧
    (decode w = .instr .decrypt ↔ w &&& 0xFF#8 = 0x80#8) ∧
    (∀ enc rc, decode w = .instr (.process enc rc) ↔
      (w &&& 0xD0#8 = 0xC0#8 ∨ w &&& 0xDF#8 = 0xD0#8) ∧
        enc = w.getLsbD 5 ∧ rc = w.extractLsb' 0 5) ∧
    ((decode w).toOption = none ↔
      ¬(w &&& 0xFF#8 = 0x00#8 ∨ w &&& 0xFF#8 = 0x40#8 ∨ w &&& 0xFF#8 = 0x80#8 ∨
        w &&& 0xD0#8 = 0xC0#8 ∨ w &&& 0xDF#8 = 0xD0#8))) ∧
  ((List.range 256).filter fun w => (decode (BitVec.ofNat 8 w)).toOption.isSome).length = 37 ∧
  ((List.range 256).filter fun w => (decode (BitVec.ofNat 8 w)).toOption.isNone).length = 219

/-- R60 to R63: decoding the word of a well-formed instruction gives it back, every operand at every value. -/
def Obligations.DecodeOfEncode : Prop :=
  ∀ i : Instr, i.wellFormed = true → decode (encode i) = .instr i

/-- R60 to R62: the only word that decodes to an instruction is its own, and what decodes is well-formed. -/
def Obligations.EncodeOfDecode : Prop :=
  ∀ (w : CmdWord) (i : Instr), decode w = .instr i → i.wellFormed = true ∧ encode i = w

/-- R71: a LOADKEY, ENCRYPT, DECRYPT or PROCESS line stands for a transaction whose word decodes to the line's command,
with the line's operands on the ports that command uses; a RAW line for the transaction of exactly its word and ports,
whatever the word; a RESET line for the reset move. -/
def Obligations.AssemblerLinesStandForCommands : Prop :=
  (∀ (idle key block : BitVec 64) (rc : BitVec 5) (enc : Bool), rc.toNat ≤ 16 →
    (∃ w, (AsmLine.loadkey key).move idle = .command ⟨w, idle, key⟩ ∧ decode w = .instr .loadkey) ∧
    (∃ w, (AsmLine.encrypt block).move idle = .command ⟨w, block, idle⟩ ∧ decode w = .instr .encrypt) ∧
    (∃ w, (AsmLine.decrypt block).move idle = .command ⟨w, block, idle⟩ ∧ decode w = .instr .decrypt) ∧
    (∃ w, (AsmLine.process block key rc enc).move idle = .command ⟨w, block, key⟩ ∧
      decode w = .instr (.process enc rc))) ∧
  (∀ (idle din keyin : BitVec 64) (cmd : CmdWord), (AsmLine.raw cmd din keyin).move idle = .command ⟨cmd, din, keyin⟩) ∧
  (∀ idle : BitVec 64, AsmLine.reset.move idle = .reset)

/-! ### The Table Store (40_table_store.md) -/

/-- The facts (a) to (h) of R97, and R88's that every S-box row is a permutation of 0..15. -/
def Obligations.TablesHaveTheirStructure : Prop :=
  (∀ q ∈ tableIP.entries ++ tableFP.entries ++ tablePC1.entries, 1 ≤ q ∧ q ≤ 64) ∧
  (∀ q ∈ tableE.entries ++ tableP.entries, 1 ≤ q ∧ q ≤ 32) ∧
  (∀ q ∈ tablePC2.entries, 1 ≤ q ∧ q ≤ 56) ∧
  tableIP.entries.Perm (List.range' 1 64) ∧
  tableFP.entries.Perm (List.range' 1 64) ∧
  (∀ i < 64, tableFP.entries.getD (tableIP.entries.getD i 0 - 1) 0 = i + 1 ∧
    tableIP.entries.getD (tableFP.entries.getD i 0 - 1) 0 = i + 1) ∧
  tableP.entries.Perm (List.range' 1 32) ∧
  tableE.entries.length = 48 ∧
  ((List.range' 1 32).filter fun q => tableE.entries.count q = 2).length = 16 ∧
  ((List.range' 1 32).filter fun q => tableE.entries.count q = 1).length = 16 ∧
  tablePC1.entries.length = 56 ∧ tablePC1.entries.Nodup ∧
  (∀ q ∈ List.range' 1 64, q ∉ tablePC1.entries ↔ q % 8 = 0) ∧
  tablePC2.entries.length = 48 ∧ tablePC2.entries.Nodup ∧
  (∀ q ∈ List.range' 1 56, q ∉ tablePC2.entries ↔ q ∈ [9, 18, 22, 25, 35, 38, 43, 54]) ∧
  (∀ q ∈ tablePC2.entries.take 24, q ≤ 28) ∧ (∀ q ∈ tablePC2.entries.drop 24, 29 ≤ q) ∧
  (∀ (g : Fin 8) (row : Fin 4),
    (sboxes[g][row].toList.map BitVec.toNat).Perm (List.range 16)) ∧
  shifts.length = 16 ∧ (∀ n ∈ shifts, n = 1 ∨ n = 2) ∧ shifts.sum = 28

/-! ### permute (41_permute.md) -/

/-- R100: output index `W_out - 1 - i` is input index `W_in - T[i]`, and the same as one sum. -/
def Obligations.PermuteCopiesTableBits : Prop :=
  ∀ (win wout : Nat) (T : PermTable win wout) (v : BitVec win),
    (∀ i < wout, (permute T v).getLsbD (wout - 1 - i) = v.getLsbD (win - T.entries.getD i 0)) ∧
    (permute T v).toNat =
      ((List.range wout).map fun i =>
        v.toNat >>> (win - T.entries.getD i 0) % 2 * 2 ^ (wout - 1 - i)).sum

/-- R103, which the spec marks as derived from R100: permute commutes with XOR and complement, keeps all-zeros and
all-ones, and sends a single bit at position `q` to exactly the output positions whose entry is `q`. -/
def Obligations.PermuteIsLinear : Prop :=
  ∀ (win wout : Nat) (T : PermTable win wout) (a b : BitVec win),
    permute T (a ^^^ b) = permute T a ^^^ permute T b ∧
    permute T 0 = 0 ∧
    permute T (BitVec.allOnes win) = BitVec.allOnes wout ∧
    permute T (~~~a) = ~~~permute T a ∧
    ∀ q, 1 ≤ q → q ≤ win → ∀ i < wout,
      atPosition (permute T (BitVec.twoPow win (win - q))) (i + 1) = decide (T.entries.getD i 0 = q)

/-- R104: IP and FP undo each other on every 64-bit value. -/
def Obligations.InitialAndFinalAreInverse : Prop :=
  ∀ x : BitVec 64, permute tableFP (permute tableIP x) = x ∧ permute tableIP (permute tableFP x) = x

/-! ### The key schedule (42_key_schedule.md) -/

/-- R110: rotation by 1 or 2 within 28 bits; the bit at position `q` moves to `q - n`, wrapping 0 to 28 and -1 to
27. -/
def Obligations.RotationStaysWithin28Bits : Prop :=
  ∀ (v : KeyHalf) (n : Nat), n = 1 ∨ n = 2 →
    (rotl28 v n).toNat = (v.toNat <<< n) % 2 ^ 28 ||| v.toNat >>> (28 - n) ∧
    ∀ q, 1 ≤ q → q ≤ 28 →
      atPosition (rotl28 v n) (if n < q then q - n else q + 28 - n) = atPosition v q

/-- R111: the halves of PC-1, rotated round on round, through PC-2. That `C` is the high half is the spec's own
inference ("only this reading reproduces vector V1"). -/
def Obligations.KeyScheduleRotatesRoundOnRound : Prop :=
  ∀ mk : MasterKey, ∃ C D : Nat → KeyHalf,
    C 0 = (permute tablePC1 mk).extractLsb' 28 28 ∧ D 0 = (permute tablePC1 mk).extractLsb' 0 28 ∧
    ∀ (r : Nat) (h : r < 16),
      C (r + 1) = rotl28 (C r) (shifts.getD r 0) ∧ D (r + 1) = rotl28 (D r) (shifts.getD r 0) ∧
      (keySchedule mk)[r] = permute tablePC2 (C (r + 1) ++ D (r + 1))

/-- R112, which the spec marks as derived: each RoundKey from the PC-1 halves rotated once by the accumulated amount;
the total after the last round is 28, so `ks[15]` is PC-2 of the unrotated PC-1 output. -/
def Obligations.RoundKeysFromAccumulatedShifts : Prop :=
  (List.range 16).map totalShift = [1, 2, 4, 6, 8, 10, 12, 14, 15, 17, 19, 21, 23, 25, 27, 28] ∧
  ∀ mk : MasterKey,
    (∀ (r : Nat) (h : r < 16),
      (keySchedule mk)[r] =
        permute tablePC2
          (((permute tablePC1 mk).extractLsb' 28 28).rotateLeft (totalShift r % 28) ++
            ((permute tablePC1 mk).extractLsb' 0 28).rotateLeft (totalShift r % 28))) ∧
    (keySchedule mk)[15] = permute tablePC2 (permute tablePC1 mk)

/-- R113: the eight parity bits of the MasterKey have no effect on the schedule. -/
def Obligations.ParityBitsAreIgnored : Prop :=
  ∀ mk m : MasterKey, m &&& 0xFEFEFEFEFEFEFEFE#64 = 0 → keySchedule (mk ^^^ m) = keySchedule mk

/-- R115, which the spec marks as derived: the schedule of the complemented key is the complemented schedule. -/
def Obligations.ComplementedKeyComplementsSchedule : Prop :=
  ∀ (mk : MasterKey) (r : Nat) (h : r < 16), (keySchedule (~~~mk))[r] = ~~~(keySchedule mk)[r]

/-- The cases (a) to (d) of R116, which the spec marks as derived. -/
def Obligations.CornerKeySchedules : Prop :=
  (keySchedule 0x0000000000000000#64).toList = List.replicate 16 0x000000000000#48 ∧
  (keySchedule 0x0101010101010101#64).toList = List.replicate 16 0x000000000000#48 ∧
  (keySchedule 0xFFFFFFFFFFFFFFFF#64).toList = List.replicate 16 0xFFFFFFFFFFFF#48 ∧
  (keySchedule 0xFEFEFEFEFEFEFEFE#64).toList = List.replicate 16 0xFFFFFFFFFFFF#48 ∧
  (keySchedule 0x01FE01FE01FE01FE#64).toList = (keySchedule 0xFE01FE01FE01FE01#64).toList.reverse ∧
  (keySchedule 0x0000000000000002#64).toList =
    [0x000000000100#48, 0x000000040000#48, 0x000000000040#48, 0x000000008000#48, 0x000000000400#48,
      0x000000080000#48, 0x000000004000#48, 0x000000000000#48, 0x000000000010#48, 0x000000010000#48,
      0x000000000000#48, 0x000000000004#48, 0x000000000080#48, 0x000000000001#48, 0x000000020000#48,
      0x000000000002#48]

/-! ### The round function (43_round_function.md) -/

/-- R120: group `g` of the expanded half is input positions `4g` to `4g + 5`, position 0 read as 32 and 33 as 1. -/
def Obligations.ExpansionTakesNeighbouringBits : Prop :=
  ∀ (r : Half) (g j : Nat), g < 8 → j < 6 →
    atPosition (permute tableE r) (6 * g + j + 1) =
      atPosition r (if 4 * g + j = 0 then 32 else if 4 * g + j = 33 then 1 else 4 * g + j)

/-- R122, R123: nibble `g` of the substitution is the cell of box `g` at the row made of the group's bits 5 and 0 and
the column made of its bits 4 to 1. That group `g` is indices `47-6g` to `42-6g`, group 0 the most significant, is an
inference the spec marks as its own (R122, "[derived: from `00_scope.md` rule R9 and vector V1]"; 91_not_in_source.md
N16: no source sentence says it), and so is the numbering of the bits inside a group (R123, 90_conflicts.md C7: "the
only one that reproduces vector V1"). -/
def Obligations.SubstitutionReadsItsCells : Prop :=
  ∀ (x : BitVec 48) (g : Fin 8) (row : Fin 4) (col : Fin 16),
    row.val = 2 * ((x.extractLsb' (42 - 6 * g.val) 6).getLsbD 5).toNat +
      ((x.extractLsb' (42 - 6 * g.val) 6).getLsbD 0).toNat →
    col.val = ((x.extractLsb' (42 - 6 * g.val) 6).extractLsb' 1 4).toNat →
    (substitute x).extractLsb' (28 - 4 * g.val) 4 = sboxes[g][row][col]

/-- R125, which the spec marks as derived: complementing both operands of `f` changes nothing; and `f` depends on its
operands only through the mixed value. -/
def Obligations.RoundFunctionKeepsUnderComplement : Prop :=
  (∀ (r : Half) (k : RoundKey), roundF (~~~r) (~~~k) = roundF r k) ∧
  (∀ (r r' : Half) (k k' : RoundKey),
    permute tableE r ^^^ k = permute tableE r' ^^^ k' → roundF r k = roundF r' k')

/-- R127, on the fused tables `S∘P` that the model names for it: the fused round function is bit-identical to `f`. -/
def Obligations.FusedRoundFunctionAgrees : Prop :=
  ∀ (r : Half) (k : RoundKey), fusedRoundF r k = roundF r k

/-- Rows of the table of R129, which the spec marks as derived, and the worked example of R124. -/
def Obligations.RoundFunctionCornerCases : Prop :=
  roundF 0x00000000#32 0x000000000000#48 = 0xD8D8DBBC#32 ∧
  roundF 0xFFFFFFFF#32 0x000000000000#48 = 0x38DBF9CB#32 ∧
  roundF 0x00000000#32 0xFFFFFFFFFFFF#48 = 0x38DBF9CB#32 ∧
  roundF 0x00000000#32 0x840000000000#48 = 0xD8D8DBBE#32 ∧
  roundF 0x00000000#32 0x040000000000#48 = 0xD85859BC#32 ∧
  roundF 0x00000000#32 0x800000000000#48 = 0xD858D9BC#32 ∧
  roundF 0x00000000#32 0x780000000000#48 = 0xD858DBBE#32 ∧
  roundF 0x12345678#32 0xA5A5A5A5A5A5#48 = 0x55AA4432#32 ∧
  roundF 0x0F550F55#32 0xE4FD10038F8D#48 = 0x234AA9BB#32 ∧
  roundF 0xF0AAF0AA#32 0x1B02EFFC7072#48 = 0x234AA9BB#32

/-! ### The block transform (44_block_transform.md) -/

/-- R135: IP, the split, one Feistel exchange per key in the given order, the closing swap, FP; with the worked
example. -/
def Obligations.TransformRunsTheFeistelRounds : Prop :=
  (∀ (block : Block) (keys : List RoundKey), ∃ left right : Nat → Half,
    left 0 = (permute tableIP block).extractLsb' 32 32 ∧
    right 0 = (permute tableIP block).extractLsb' 0 32 ∧
    (∀ (i : Nat) (h : i < keys.length),
      left (i + 1) = right i ∧ right (i + 1) = roundF (right i) keys[i] ^^^ left i) ∧
    transform block keys = permute tableFP (right keys.length ++ left keys.length)) ∧
  transform 0x0123456789ABCDEF#64 (keySchedule 0x133457799BBCDFF1#64).toList = 0x85E813540F0AB405#64

/-- R138: decryption undoes encryption and encryption decryption; in general the reversed keys undo the keys, for a
sequence of any length (the general form is marked derived in the spec). -/
def Obligations.ReversedKeysUndoTransform : Prop :=
  (∀ (block : Block) (keys : List RoundKey), transform (transform block keys) keys.reverse = block) ∧
  (∀ (ks : RoundKeySet) (block : Block), decryptBlock ks (encryptBlock ks block) = block ∧
    encryptBlock ks (decryptBlock ks block) = block)

/-- R139, which the spec marks as derived and as the correction of conflict C1: after one round the low half of the
image under IP is the right half of the block after IP, the high half is `L_0 ^ f(R_0, k)`. -/
def Obligations.OneRoundKeepsTheRightHalf : Prop :=
  ∀ (block : Block) (k : RoundKey),
    (permute tableIP (transform block [k])).extractLsb' 0 32 = (permute tableIP block).extractLsb' 0 32 ∧
    (permute tableIP (transform block [k])).extractLsb' 32 32 =
      (permute tableIP block).extractLsb' 32 32 ^^^ roundF ((permute tableIP block).extractLsb' 0 32) k

/-- R141: complementing the key and the block complements the result, in both directions and for every partial round
count; with the example. -/
def Obligations.ComplementationProperty : Prop :=
  (∀ (block : Block) (mk : MasterKey) (n : Nat),
    transform (~~~block) ((keySchedule (~~~mk)).toList.take n) =
      ~~~transform block ((keySchedule mk).toList.take n) ∧
    transform (~~~block) ((keySchedule (~~~mk)).toList.reverse.take n) =
      ~~~transform block ((keySchedule mk).toList.reverse.take n)) ∧
  transform 0xFEDCBA9876543210#64 (keySchedule 0xECCBA8866443200E#64).toList = 0x7A17ECABF0F54BFA#64

/-- Values of R142, which the spec marks as derived, and the two known-answer vectors V1 and V2 of the source. -/
def Obligations.TransformCornerCases : Prop :=
  transform 0x0123456789ABCDEF#64 [] = 0x02138A9B4657CEDF#64 ∧
  transform 0x0123456789ABCDEF#64 [0x1B02EFFC7072#48] = 0x4472457288EEDDEA#64 ∧
  transform 0x0123456789ABCDEF#64 (List.replicate 16 0x000000000000#48) = 0x617B3A0CE8F07100#64 ∧
  transform 0x617B3A0CE8F07100#64 (List.replicate 16 0x000000000000#48) = 0x0123456789ABCDEF#64 ∧
  transform 0x0000000000000000#64 (List.replicate 16 0x000000000000#48) = 0x8CA64DE9C1B123A7#64 ∧
  transform 0xFFFFFFFFFFFFFFFF#64 (List.replicate 16 0xFFFFFFFFFFFF#48) = 0x7359B2163E4EDC58#64 ∧
  encryptBlock (keySchedule 0x133457799BBCDFF1#64) 0x0123456789ABCDEF#64 = 0x85E813540F0AB405#64 ∧
  encryptBlock (keySchedule 0x0E329232EA6D0D73#64) 0x8787878787878787#64 = 0x0000000000000000#64

/-! ### Byte order at the ports (20_memory.md) -/

/-- R44: the bytes of a value, the first transmitted first, are read as a big-endian integer. -/
def Obligations.BytesAreReadBigEndian : Prop :=
  (∀ b : Vector Byte 8,
    (valueOfBytes b).toNat =
      b[0].toNat * 2 ^ 56 + b[1].toNat * 2 ^ 48 + b[2].toNat * 2 ^ 40 + b[3].toNat * 2 ^ 32 +
        b[4].toNat * 2 ^ 24 + b[5].toNat * 2 ^ 16 + b[6].toNat * 2 ^ 8 + b[7].toNat ∧
    bytesOfValue (valueOfBytes b) = b) ∧
  (∀ v : BitVec 64, valueOfBytes (bytesOfValue v) = v)

/-- R45, which the spec marks as derived: on a little-endian host, the swap applied to key, input and output computes
standard DES on the host's byte strings. -/
def Obligations.SwapOnAllThreeIsStandardDes : Prop :=
  ∀ key block : Vector Byte 8,
    wrapValue true
        (encryptBlock (keySchedule (wrapValue true (littleEndianValue key)))
          (wrapValue true (littleEndianValue block))) =
      littleEndianValue
        (bytesOfValue (encryptBlock (keySchedule (valueOfBytes key)) (valueOfBytes block)))

/-! ### State, status and reset (10_state.md, 70_reset_and_hazards.md) -/

/-- R33: `READY` and `ERR` are 0 after reset and no register holds a value; `STATUS` reads 00. -/
def Obligations.ResetLeavesNoKey : Prop :=
  State.reset.ready = false ∧ State.reset.err = false ∧ (∀ i : Fin 16, State.reset.roundKey i = none) ∧
  State.reset.status = 0#2

/-- R21, R23: the registers are all without value where `READY = 0` and all with value where `READY = 1`. -/
def Obligations.RegistersHoldAllOrNothing : Prop :=
  ∀ s : State, (s.ready = false ↔ ∀ i : Fin 16, s.roundKey i = none) ∧
    (s.ready = true ↔ ∀ i : Fin 16, (s.roundKey i).isSome = true)

/-- R25: `STATUS[0]` is `READY`, `STATUS[1]` is `ERR`; a read gives the host that word and changes nothing of the
block. -/
def Obligations.StatusReadHasNoSideEffect : Prop :=
  (∀ s : State, s.status.getLsbD 0 = s.ready ∧ s.status.getLsbD 1 = s.err) ∧
  ∀ (s : State) (rest : List HostMove), s.pending = .readStatus :: rest →
    step s = .next { s with pending := rest, answers := s.answers ++ [.status s.status] }

/-- R190: reset clears `READY`, `ERR` and the registers, and is the only way `READY` and `ERR` return to 0 and a
RoundKeySet is discarded without being replaced. That the step of a reset keeps the ports and the host's other moves is
not in R190: it is the model's reading (log 8, DEDUCED from R191 and R200). That it gives the host nothing is R200's
table, which the spec marks as derived. -/
def Obligations.ResetIsTheOnlyWayBack : Prop :=
  (∀ (s : State) (rest : List HostMove), s.pending = .reset :: rest →
    ∃ t, step s = .next t ∧ t.ready = false ∧ t.err = false ∧ (∀ i : Fin 16, t.roundKey i = none) ∧
      t.ports = s.ports ∧ t.pending = rest ∧ t.answers = s.answers) ∧
  (∀ s t : State, step s = .next t →
    (s.ready = true ∧ t.ready = false) ∨ (s.err = true ∧ t.err = false) ∨
      (∃ i : Fin 16, (s.roundKey i).isSome = true ∧ t.roundKey i = none) →
    ∃ rest, s.pending = .reset :: rest)

/-- R193, which the spec marks as derived: whatever key and `ERR` a state had, after the reset nothing depends on
them. -/
def Obligations.ResetForgetsTheKey : Prop :=
  ∀ (s : State) (e : Engine) (b : Bool) (rest : List HostMove) (n : Nat), s.pending = .reset :: rest →
    Host.Core.run core (n + 1) { s with engine := e, err := b } = Host.Core.run core (n + 1) s

/-- R24: `ERR` is 0 after reset, every command that faults sets it and nothing else does, only reset clears it, no
command reads it, and it is `STATUS[1]`. -/
def Obligations.ErrIsSticky : Prop :=
  State.reset.err = false ∧
  (∀ s t : State, step s = .next t → (∃ a, t.answers = s.answers ++ [a] ∧ a.isFault = true) → t.err = true) ∧
  (∀ s t : State, step s = .next t → s.err = false → t.err = true →
    ∃ a, t.answers = s.answers ++ [a] ∧ a.isFault = true) ∧
  (∀ s t : State, step s = .next t → s.err = true → t.err = false → ∃ rest, s.pending = .reset :: rest) ∧
  (∀ (i : Instr) (s t : State) (b : Bool), exec i s = .next t →
    ∃ u, exec i { s with err := b } = .next u ∧ u.engine = t.engine ∧ u.answers = t.answers) ∧
  (∀ s : State, s.status.getLsbD 1 = s.err)

/-! ### The commands (45_engine_commands.md) -/

/-- R150: LOADKEY completes in every state; `K[r]` becomes RoundKey `r` of the key on `KEYIN`, `READY` becomes 1, the
answer is `OK` without data, and `ERR` and all else are unchanged; with the example. -/
def Obligations.LoadkeyBindsTheSchedule : Prop :=
  (∀ s : State, ∃ t, exec .loadkey s = .next t ∧
    (∀ i : Fin 16, t.roundKey i = some (keySchedule s.ports.keyin)[i]) ∧ t.ready = true ∧
    t.answers = s.answers ++ [.response .ok none] ∧
    t.err = s.err ∧ t.ports = s.ports ∧ t.pending = s.pending) ∧
  (∀ mk m : MasterKey, ∀ s t : State, s.ports.keyin = mk ^^^ m → m &&& 0xFEFEFEFEFEFEFEFE#64 = 0 →
    s.engine = .ready (keySchedule mk) → exec .loadkey s = .next t → t.engine = s.engine) ∧
  (keySchedule 0x133457799BBCDFF1#64)[0] = 0x1B02EFFC7072#48 ∧
  (keySchedule 0x133457799BBCDFF1#64)[15] = 0xCB3D8B0E17F5#48

/-- R151: with `READY = 1` ENCRYPT delivers the transform of `DIN` under `K[0], ..., K[15]` and changes nothing; with
`READY = 0` it raises NOT_READY; with the example. -/
def Obligations.EncryptUsesKeysForward : Prop :=
  (∀ (s : State) (k : RoundKeySet), (∀ i : Fin 16, s.roundKey i = some k[i]) →
    exec .encrypt s =
      .next { s with answers := s.answers ++ [.response .ok (some (transform s.ports.din k.toList))] }) ∧
  (∀ s : State, s.ready = false →
    exec .encrypt s = .next { s with err := true, answers := s.answers ++ [.response .notReady none] }) ∧
  transform 0x0123456789ABCDEF#64 (keySchedule 0x133457799BBCDFF1#64).toList = 0x85E813540F0AB405#64

/-- R152: as ENCRYPT, with the keys in the order `K[15], ..., K[0]`; under one RoundKeySet the two orders undo each
other; with the example. -/
def Obligations.DecryptUsesKeysBackward : Prop :=
  (∀ (s : State) (k : RoundKeySet), (∀ i : Fin 16, s.roundKey i = some k[i]) →
    exec .decrypt s =
      .next { s with answers := s.answers ++ [.response .ok (some (transform s.ports.din k.toList.reverse))] }) ∧
  (∀ s : State, s.ready = false →
    exec .decrypt s = .next { s with err := true, answers := s.answers ++ [.response .notReady none] }) ∧
  (∀ (k : RoundKeySet) (b : Block), transform (transform b k.toList) k.toList.reverse = b ∧
    transform (transform b k.toList.reverse) k.toList = b) ∧
  transform 0x85E813540F0AB405#64 (keySchedule 0x133457799BBCDFF1#64).toList.reverse = 0x0123456789ABCDEF#64

/-- R153: PROCESS completes in either state with the transform of `DIN` under the first `RC` keys of the ordered
schedule of `KEYIN`, and changes nothing else; the corner cases: (a) `RC = 16` uses all sixteen keys, (b) with `RC = 0`
the key and `ENC` have no effect, (c) an instance where `ENC = 0` does not undo `ENC = 1`; and the examples. The meaning
for `RC` below 16 is the spec's own decision D9. -/
def Obligations.ProcessTakesTheFirstKeys : Prop :=
  (∀ (s : State) (enc : Bool) (rc : BitVec 5), rc.toNat ≤ 16 →
    exec (.process enc rc) s =
      .next { s with
        answers := s.answers ++
          [.response .ok (some (transform s.ports.din
            (((if enc then (keySchedule s.ports.keyin).toList
              else (keySchedule s.ports.keyin).toList.reverse)).take rc.toNat)))] }) ∧
  (∀ (s : State) (enc enc' : Bool) (mk : MasterKey),
    ∃ d t u, exec (.process enc 0#5) s = .next t ∧
      exec (.process enc' 0#5) { s with ports := { s.ports with keyin := mk } } = .next u ∧
      t.answers = s.answers ++ [.response .ok (some d)] ∧ u.answers = s.answers ++ [.response .ok (some d)]) ∧
  (∀ mk : MasterKey, (keySchedule mk).toList.take 16 = (keySchedule mk).toList ∧
    (keySchedule mk).toList.reverse.take 16 = (keySchedule mk).toList.reverse) ∧
  transform 0x4472457288EEDDEA#64 ((keySchedule 0x133457799BBCDFF1#64).toList.reverse.take 1) ≠
    0x0123456789ABCDEF#64 ∧
  transform 0x0123456789ABCDEF#64 ((keySchedule 0x133457799BBCDFF1#64).toList.take 1) = 0x4472457288EEDDEA#64 ∧
  transform 0x0123456789ABCDEF#64 ((keySchedule 0x133457799BBCDFF1#64).toList.take 2) = 0x9DA4CEE1048CEEC0#64 ∧
  transform 0x0123456789ABCDEF#64 ((keySchedule 0x133457799BBCDFF1#64).toList.take 16) = 0x85E813540F0AB405#64 ∧
  transform 0x0123456789ABCDEF#64 ((keySchedule 0x133457799BBCDFF1#64).toList.reverse.take 1) =
    0x45374462CCAA98AF#64 ∧
  transform 0x0123456789ABCDEF#64 [] = 0x02138A9B4657CEDF#64

/-- Corner case (a) of R153: PROCESS with `RC = 16` delivers what LOADKEY of the same key and then ENCRYPT (`ENC = 1`)
or DECRYPT (`ENC = 0`) of the same block deliver. -/
def Obligations.FullProcessEqualsLoadThenCipher : Prop :=
  ∀ s : State, ∃ d e t t' u v w,
    exec (.process true 16#5) s = .next t ∧ t.answers = s.answers ++ [.response .ok (some d)] ∧
    exec (.process false 16#5) s = .next t' ∧ t'.answers = s.answers ++ [.response .ok (some e)] ∧
    exec .loadkey s = .next u ∧
    exec .encrypt u = .next v ∧ v.answers = u.answers ++ [.response .ok (some d)] ∧
    exec .decrypt u = .next w ∧ w.answers = u.answers ++ [.response .ok (some e)]

/-- R30, R153: what PROCESS delivers does not depend on the engine, on `ERR` or on anything before it. -/
def Obligations.ProcessIgnoresTheEngine : Prop :=
  ∀ (s s' : State) (enc : Bool) (rc : BitVec 5), s.ports = s'.ports → rc.toNat ≤ 16 →
    ∃ t t' a, exec (.process enc rc) s = .next t ∧ exec (.process enc rc) s' = .next t' ∧
      t.answers = s.answers ++ [a] ∧ t'.answers = s'.answers ++ [a] ∧
      t.engine = s.engine ∧ t'.engine = s'.engine ∧ t.err = s.err ∧ t'.err = s'.err

/-- A PROCESS term whose round count has no legal word: the model's choice (log 12) is the answer the spec gives that
word, ILLEGAL_CMD. -/
def Obligations.IllFormedProcessIsIllegal : Prop :=
  ∀ (s : State) (enc : Bool) (rc : BitVec 5), 16 < rc.toNat →
    exec (.process enc rc) s =
      .next { s with err := true, answers := s.answers ++ [.response .illegalCmd none] } ∧
    (decode (encode (.process enc rc))).toOption = none

/-- R64: LOADKEY uses `KEYIN` and ignores `DIN`; ENCRYPT and DECRYPT use `DIN` and ignore `KEYIN`: an ignored port may
carry any value and changes nothing but what stands on the port. -/
def Obligations.IgnoredPortsHaveNoEffect : Prop :=
  ∀ (s : State) (x : BitVec 64),
    (∃ t u, exec .loadkey s = .next t ∧ exec .loadkey { s with ports := { s.ports with din := x } } = .next u ∧
      u = { t with ports := { s.ports with din := x } }) ∧
    (∀ i, i = .encrypt ∨ i = .decrypt →
      ∃ t u, exec i s = .next t ∧ exec i { s with ports := { s.ports with keyin := x } } = .next u ∧
        u = { t with ports := { s.ports with keyin := x } })

/-- The frame of the four commands (R32, which the spec marks as derived): what each leaves unchanged. There is no
memory and no other register. -/
def Obligations.CommandFrames : Prop :=
  ∀ (i : Instr) (s t : State), exec i s = .next t →
    t.ports = s.ports ∧ t.pending = s.pending ∧
    (i ≠ .loadkey → t.engine = s.engine ∧ t.ready = s.ready ∧ ∀ r : Fin 16, t.roundKey r = s.roundKey r) ∧
    (i = .loadkey → t.err = s.err) ∧
    (t.err = s.err ∨
      t.err = true ∧ ∃ a, t.answers = s.answers ++ [a] ∧ a.isFault = true) ∧
    ∃ r d, t.answers = s.answers ++ [.response r d]

/-- R50, which the spec marks as derived: a command performed again with the same operands gives the same answer and
leaves the block as the first did. -/
def Obligations.RepeatingACommandChangesNothing : Prop :=
  ∀ (i : Instr) (s t : State), exec i s = .next t →
    ∃ u a, exec i t = .next u ∧ t.answers = s.answers ++ [a] ∧ u.answers = t.answers ++ [a] ∧
      u.engine = t.engine ∧ u.err = t.err

/-! ### Faults (60_exceptions.md) -/

/-- R170: every command ends with exactly one response; its code is 0, 1 or 2, never 3; NOT_READY and ILLEGAL_CMD
answer the commands they are for. -/
def Obligations.EveryCommandAnswersOnce : Prop :=
  Resp.ok.code = 0#2 ∧ Resp.notReady.code = 1#2 ∧ Resp.illegalCmd.code = 2#2 ∧
  ∀ (s t : State) (p : Ports) (rest : List HostMove), s.pending = .command p :: rest → step s = .next t →
    ∃ r d, t.answers = s.answers ++ [.response r d] ∧ r.code ≠ 3#2 ∧
      (r = .illegalCmd ↔ (decode p.cmd).toOption = none) ∧
      (r = .notReady ↔ s.ready = false ∧ (p.cmd = 0x40#8 ∨ p.cmd = 0x80#8))

/-- R171: ENCRYPT and DECRYPT raise NOT_READY when `READY = 0`, whatever is on `DIN`; LOADKEY and PROCESS never raise
it; and the step of a transaction answers NOT_READY for no other cause: if it does, then `READY = 0` and the word is
ENCRYPT's or DECRYPT's, so neither of these two with `READY = 1` nor a reserved word (R174) ever gets that answer. -/
def Obligations.NotReadyIsForMissingKeys : Prop :=
  (∀ (i : Instr) (s : State) (x : Block), i = .encrypt ∨ i = .decrypt → s.ready = false →
    ∃ t, exec i { s with ports := { s.ports with din := x } } = .next t ∧
      t.answers = s.answers ++ [.response .notReady none] ∧ t.err = true) ∧
  (∀ (s t : State) (d : Option Block), exec .loadkey s = .next t →
    t.answers ≠ s.answers ++ [.response .notReady d]) ∧
  (∀ (s t : State) (enc : Bool) (rc : BitVec 5) (d : Option Block), exec (.process enc rc) s = .next t →
    t.answers ≠ s.answers ++ [.response .notReady d]) ∧
  (∀ (s t : State) (p : Ports) (rest : List HostMove) (d : Option Block),
    s.pending = .command p :: rest → step s = .next t → t.answers = s.answers ++ [.response .notReady d] →
    s.ready = false ∧ (p.cmd = 0x40#8 ∨ p.cmd = 0x80#8))

/-- R172, R174: a word that no row of the opcode map matches answers ILLEGAL_CMD, in either state and whatever the
ports carry, and changes only `ERR`. -/
def Obligations.ReservedWordsAreIllegal : Prop :=
  ∀ (s : State) (p : Ports) (rest : List HostMove), s.pending = .command p :: rest →
    ¬(p.cmd = 0x00#8 ∨ p.cmd = 0x40#8 ∨ p.cmd = 0x80#8 ∨
      (p.cmd.extractLsb' 6 2 = 3#2 ∧ (p.cmd.extractLsb' 0 5).toNat ≤ 16)) →
    step s = .next { s with
      err := true, ports := p, pending := rest, answers := s.answers ++ [.response .illegalCmd none] }

/-- R173: a command that faults sets `ERR`, delivers no data and changes nothing else. -/
def Obligations.FaultsArePrecise : Prop :=
  ∀ (s t : State) (p : Ports) (rest : List HostMove) (r : Resp) (d : Option Block),
    s.pending = .command p :: rest → step s = .next t → t.answers = s.answers ++ [.response r d] → r ≠ .ok →
    t = { s with err := true, ports := p, pending := rest, answers := s.answers ++ [.response r none] }

/-! ### The step, sequences of commands -/

/-- R154: the step of a transaction decodes `CMD` first; a legal word runs the command on the sampled ports, with the
move taken off the host's list; a reserved word raises ILLEGAL_CMD; every step ends in a next state. -/
def Obligations.StepRunsTheDecodedCommand : Prop :=
  (∀ (s : State) (p : Ports) (rest : List HostMove), s.pending = .command p :: rest →
    (∀ i, decode p.cmd = .instr i → step s = exec i { s with ports := p, pending := rest }) ∧
    (∀ r, decode p.cmd = .reserved r →
      step s = .next { s with
        err := true, ports := p, pending := rest, answers := s.answers ++ [.response .illegalCmd none] })) ∧
  (∀ s : State, ∃ t, step s = .next t)

/-- With no move pending the block keeps its state (R179, R198; that a step is then idle is the model's choice,
log 5). -/
def Obligations.IdleKeepsTheState : Prop :=
  ∀ s : State, s.pending = [] → step s = .next s

/-- The model's own interface (log 19): a word placed as the host's next move is what the next step runs. -/
def Obligations.PlacedWordRunsNext : Prop :=
  ∀ (s : State) (i : Instr), i.wellFormed = true →
    step (s.withFetchWord 8 (encode i).toNat) =
      exec i { s with ports := { s.ports with cmd := encode i } }

/-- R52 (a), R195: the block that is encrypted or decrypted right after a LOADKEY meets the new key. -/
def Obligations.NextCommandUsesTheNewKey : Prop :=
  ∀ (s : State) (mk x y b : BitVec 64) (rest : List HostMove),
    (s.pending = .command ⟨0x00#8, x, mk⟩ :: .command ⟨0x40#8, b, y⟩ :: rest →
      ∃ t, Host.Core.run core 2 s = .next t ∧ t.pending = rest ∧
        t.answers = s.answers ++
          [.response .ok none, .response .ok (some (transform b (keySchedule mk).toList))]) ∧
    (s.pending = .command ⟨0x00#8, x, mk⟩ :: .command ⟨0x80#8, b, y⟩ :: rest →
      ∃ t, Host.Core.run core 2 s = .next t ∧ t.pending = rest ∧
        t.answers = s.answers ++
          [.response .ok none, .response .ok (some (transform b (keySchedule mk).toList.reverse))])

/-- Corner case of R152: with a key loaded, DECRYPT of what ENCRYPT delivered gives ENCRYPT's block back, and ENCRYPT
of what DECRYPT delivered gives DECRYPT's. -/
def Obligations.DecryptReturnsTheEncryptedBlock : Prop :=
  ∀ (s : State) (b c x y : BitVec 64) (w w' : CmdWord) (rest : List HostMove),
    s.ready = true → (w = 0x40#8 ∧ w' = 0x80#8) ∨ (w = 0x80#8 ∧ w' = 0x40#8) →
    s.pending = .command ⟨w, b, x⟩ :: .command ⟨w', c, y⟩ :: rest →
    ∃ t u d, step s = .next t ∧ t.answers = s.answers ++ [.response .ok (some d)] ∧
      (d = c → step t = .next u ∧ u.answers = t.answers ++ [.response .ok (some b)])

/-- R52 (c): two commands that change no state may be exchanged; each gets the same answer and the block ends in the
same state. -/
def Obligations.CommandsThatChangeNothingCommute : Prop :=
  ∀ (s : State) (p q : Ports) (rest : List HostMove) (a b : Block) (t : State),
    p.cmd ≠ 0x00#8 → q.cmd ≠ 0x00#8 →
    s.pending = .command p :: .command q :: rest →
    Host.Core.run core 2 s = .next t →
    t.answers = s.answers ++ [.response .ok (some a), .response .ok (some b)] →
    ∃ u, Host.Core.run core 2 { s with pending := .command q :: .command p :: rest } = .next u ∧
      u.answers = s.answers ++ [.response .ok (some b), .response .ok (some a)] ∧
      u.engine = t.engine ∧ u.err = t.err ∧ u.pending = t.pending

/-- R155, which the spec marks as derived: after any moves from reset, ENCRYPT and DECRYPT answer by the key of the
latest LOADKEY since the last reset, or NOT_READY if there is none; PROCESS answers by its own operands. -/
def Obligations.HistoryMattersOnlyThroughTheKey : Prop :=
  ∀ (moves : List HostMove) (p : Ports),
    ∃ t, Host.Core.run core (moves.length + 1) { State.reset with pending := moves ++ [.command p] } = .next t ∧
      t.pending = [] ∧
      (p.cmd = 0x40#8 → t.answers.getLast? = some
        (match boundKey moves with
          | some mk => .response .ok (some (transform p.din (keySchedule mk).toList))
          | none => .response .notReady none)) ∧
      (p.cmd = 0x80#8 → t.answers.getLast? = some
        (match boundKey moves with
          | some mk => .response .ok (some (transform p.din (keySchedule mk).toList.reverse))
          | none => .response .notReady none)) ∧
      (∀ (enc : Bool) (rc : BitVec 5), p.cmd = 3#2 ++ BitVec.ofBool enc ++ rc → rc.toNat ≤ 16 →
        t.answers.getLast? = some
          (.response .ok (some (transform p.din
            ((if enc then (keySchedule p.keyin).toList
              else (keySchedule p.keyin).toList.reverse).take rc.toNat)))))

/-! ### Invariants -/

/-- R20, R32: a step changes the registers or `READY` only where it performs LOADKEY or a reset. -/
def Obligations.OnlyLoadkeyAndResetChangeKeys : Prop :=
  ∀ s t : State, step s = .next t →
    (t.ready ≠ s.ready ∨ ∃ i : Fin 16, t.roundKey i ≠ s.roundKey i) →
    (∃ rest, s.pending = .reset :: rest) ∨ ∃ p rest, s.pending = .command p :: rest ∧ p.cmd = 0x00#8

/-- R31, which the spec marks as derived, with R173 and R42: from every state of the invariant, a step leads to one:
registers that hold values hold the schedule of one MasterKey, a recorded fault was reported, no fault carried data. -/
def Obligations.StepKeepsTheInvariant : Prop :=
  ∀ s t : State, s.Inv → step s = .next t → t.Inv

/-- The invariant holds after reset (R33). -/
def Obligations.ResetMeetsTheInvariant : Prop := State.reset.Inv
end

