-- ==== Sys2Proof/Laws/Cipher.lean ====
section
/-! SUPPORT. The spec lemma of each pure function: what its result is, bit by bit or list by list. -/

namespace Sys2Proof.Machine

/-- The bit of `permute` at output position `i + 1` is the input bit at position `T[i]` (41_permute.md R100). -/
theorem permute_getMsbD {win wout : Nat} (T : PermTable win wout) (v : BitVec win) (i : Nat) :
    (permute T v).getMsbD i = (T.entries.map fun q => atPosition v q).getD i false := by
  simp only [permute, BitVec.getMsbD_cast, BitVec.getMsbD_ofBoolListBE]

/-- The list behind `key_schedule` (42_key_schedule.md R111). -/
theorem keySchedule_toList (mk : MasterKey) :
    (keySchedule mk).toList = scheduleRounds shifts (initialC mk) (initialD mk) := rfl

/-- `transform` of no keys: the closing swap and FP alone (44_block_transform.md R142). -/
theorem transform_nil (b : Block) : transform b [] = finish (initialLeft b, initialRight b) := rfl

/-- The loop over two key sequences in a row (44_block_transform.md R135). -/
theorem feistel_append (ks ls : List RoundKey) (l r : Half) :
    feistel (ks ++ ls) l r = feistel ls (feistel ks l r).1 (feistel ks l r).2 := by
  induction ks generalizing l r with
  | nil => rfl
  | cons k ks ih => exact ih _ _

/-- The key sequence of PROCESS has `RC` keys (45_engine_commands.md R153). -/
theorem processKeys_length (enc : Bool) (rc : BitVec 5) (mk : MasterKey) (h : rc.toNat ≤ 16) :
    (processKeys enc rc mk).length = rc.toNat := by
  cases enc <;> simpa [processKeys, orderedKeys, roundCount] using h

end Sys2Proof.Machine
end

