-- ==== Sys2Proof/Laws/PerInstr.lean ====
section
/-! SUPPORT. Facts about every instruction as syntax. Family `Fields`: the encoder puts each field of a well-formed
instruction at its place in the command word (30_encoding.md R60). -/

namespace Sys2Proof.Laws.Fields

/-- The operation select of a command (R61). -/
def opOf : Instr → BitVec 2
  | .loadkey => 0
  | .encrypt => 1
  | .decrypt => 2
  | .process _ _ => 3

/-- `CMD[5:0]` of a command: zero but for PROCESS (R60). -/
def lowOf : Instr → BitVec 6
  | .loadkey => 0
  | .encrypt => 0
  | .decrypt => 0
  | .process enc rc => BitVec.ofBool enc ++ rc

/-- The fields of the encoded word. -/
def Statement (i : Instr) : Prop := opField (encode i) = opOf i ∧ lowField (encode i) = lowOf i

theorem loadkey : Statement .loadkey := ⟨by decide, by decide⟩

theorem encrypt : Statement .encrypt := ⟨by decide, by decide⟩

theorem decrypt : Statement .decrypt := ⟨by decide, by decide⟩

theorem process (enc : Bool) (rc : BitVec 5) : Statement (.process enc rc) := by
  cases enc <;> revert rc <;> unfold Statement <;> decide

end Sys2Proof.Laws.Fields
end

