-- ==== Sys2Proof/Laws/State.lean ====
section
/-! SUPPORT. What each update of the state does to each field, and the accessors in each state of the engine: one
lemma per field per update. -/

namespace Sys2Proof.Machine

/-! ### `setErr` -/

@[simp] theorem setErr_engine (s : State) : (setErr s).engine = s.engine := rfl
@[simp] theorem setErr_err (s : State) : (setErr s).err = true := rfl
@[simp] theorem setErr_ports (s : State) : (setErr s).ports = s.ports := rfl
@[simp] theorem setErr_pending (s : State) : (setErr s).pending = s.pending := rfl
@[simp] theorem setErr_answers (s : State) : (setErr s).answers = s.answers := rfl
@[simp] theorem setErr_ready (s : State) : (setErr s).ready = s.ready := rfl
@[simp] theorem setErr_roundKey (s : State) (i : Fin 16) : (setErr s).roundKey i = s.roundKey i := rfl
@[simp] theorem setErr_block (s : State) : (setErr s).block = s.block := rfl
@[simp] theorem setErr_masterKey (s : State) : (setErr s).masterKey = s.masterKey := rfl

/-! ### `bindKeys` -/

@[simp] theorem bindKeys_engine (k : RoundKeySet) (s : State) : (bindKeys k s).engine = .ready k := rfl
@[simp] theorem bindKeys_err (k : RoundKeySet) (s : State) : (bindKeys k s).err = s.err := rfl
@[simp] theorem bindKeys_ports (k : RoundKeySet) (s : State) : (bindKeys k s).ports = s.ports := rfl
@[simp] theorem bindKeys_pending (k : RoundKeySet) (s : State) : (bindKeys k s).pending = s.pending := rfl
@[simp] theorem bindKeys_answers (k : RoundKeySet) (s : State) : (bindKeys k s).answers = s.answers := rfl
@[simp] theorem bindKeys_block (k : RoundKeySet) (s : State) : (bindKeys k s).block = s.block := rfl
@[simp] theorem bindKeys_masterKey (k : RoundKeySet) (s : State) : (bindKeys k s).masterKey = s.masterKey := rfl

/-! ### `deliver` -/

@[simp] theorem deliver_engine (r : Resp) (d : Option Block) (s : State) : (deliver r d s).engine = s.engine := rfl
@[simp] theorem deliver_err (r : Resp) (d : Option Block) (s : State) : (deliver r d s).err = s.err := rfl
@[simp] theorem deliver_ports (r : Resp) (d : Option Block) (s : State) : (deliver r d s).ports = s.ports := rfl
@[simp] theorem deliver_pending (r : Resp) (d : Option Block) (s : State) : (deliver r d s).pending = s.pending := rfl
@[simp] theorem deliver_answers (r : Resp) (d : Option Block) (s : State) : (deliver r d s).answers = s.answers ++ [.response r d] := rfl
@[simp] theorem deliver_ready (r : Resp) (d : Option Block) (s : State) : (deliver r d s).ready = s.ready := rfl
@[simp] theorem deliver_roundKey (r : Resp) (d : Option Block) (s : State) (i : Fin 16) : (deliver r d s).roundKey i = s.roundKey i := rfl
@[simp] theorem deliver_status (r : Resp) (d : Option Block) (s : State) : (deliver r d s).status = s.status := rfl
@[simp] theorem deliver_block (r : Resp) (d : Option Block) (s : State) : (deliver r d s).block = s.block := rfl
@[simp] theorem deliver_masterKey (r : Resp) (d : Option Block) (s : State) : (deliver r d s).masterKey = s.masterKey := rfl

/-! ### `raise` -/

@[simp] theorem raise_engine (f : CmdFault) (s : State) : (raise f s).engine = s.engine := rfl
@[simp] theorem raise_err (f : CmdFault) (s : State) : (raise f s).err = true := rfl
@[simp] theorem raise_ports (f : CmdFault) (s : State) : (raise f s).ports = s.ports := rfl
@[simp] theorem raise_pending (f : CmdFault) (s : State) : (raise f s).pending = s.pending := rfl
@[simp] theorem raise_answers (f : CmdFault) (s : State) : (raise f s).answers = s.answers ++ [.response f.resp none] := rfl
@[simp] theorem raise_ready (f : CmdFault) (s : State) : (raise f s).ready = s.ready := rfl
@[simp] theorem raise_roundKey (f : CmdFault) (s : State) (i : Fin 16) : (raise f s).roundKey i = s.roundKey i := rfl
@[simp] theorem raise_block (f : CmdFault) (s : State) : (raise f s).block = s.block := rfl
@[simp] theorem raise_masterKey (f : CmdFault) (s : State) : (raise f s).masterKey = s.masterKey := rfl

/-! ### `present` -/

@[simp] theorem present_engine (p : Ports) (s : State) : (present p s).engine = s.engine := rfl
@[simp] theorem present_err (p : Ports) (s : State) : (present p s).err = s.err := rfl
@[simp] theorem present_ports (p : Ports) (s : State) : (present p s).ports = p := rfl
@[simp] theorem present_pending (p : Ports) (s : State) : (present p s).pending = s.pending := rfl
@[simp] theorem present_answers (p : Ports) (s : State) : (present p s).answers = s.answers := rfl
@[simp] theorem present_ready (p : Ports) (s : State) : (present p s).ready = s.ready := rfl
@[simp] theorem present_roundKey (p : Ports) (s : State) (i : Fin 16) : (present p s).roundKey i = s.roundKey i := rfl
@[simp] theorem present_status (p : Ports) (s : State) : (present p s).status = s.status := rfl

/-! ### `applyReset` -/

@[simp] theorem applyReset_engine (s : State) : (applyReset s).engine = .uninit := rfl
@[simp] theorem applyReset_err (s : State) : (applyReset s).err = false := rfl
@[simp] theorem applyReset_ports (s : State) : (applyReset s).ports = s.ports := rfl
@[simp] theorem applyReset_pending (s : State) : (applyReset s).pending = s.pending := rfl
@[simp] theorem applyReset_answers (s : State) : (applyReset s).answers = s.answers := rfl
@[simp] theorem applyReset_block (s : State) : (applyReset s).block = s.block := rfl
@[simp] theorem applyReset_masterKey (s : State) : (applyReset s).masterKey = s.masterKey := rfl

/-! ### `answerStatus` -/

@[simp] theorem answerStatus_engine (s : State) : (answerStatus s).engine = s.engine := rfl
@[simp] theorem answerStatus_err (s : State) : (answerStatus s).err = s.err := rfl
@[simp] theorem answerStatus_ports (s : State) : (answerStatus s).ports = s.ports := rfl
@[simp] theorem answerStatus_pending (s : State) : (answerStatus s).pending = s.pending := rfl
@[simp] theorem answerStatus_answers (s : State) : (answerStatus s).answers = s.answers ++ [.status s.status] := rfl
@[simp] theorem answerStatus_ready (s : State) : (answerStatus s).ready = s.ready := rfl
@[simp] theorem answerStatus_roundKey (s : State) (i : Fin 16) : (answerStatus s).roundKey i = s.roundKey i := rfl
@[simp] theorem answerStatus_status (s : State) : (answerStatus s).status = s.status := rfl
@[simp] theorem answerStatus_block (s : State) : (answerStatus s).block = s.block := rfl
@[simp] theorem answerStatus_masterKey (s : State) : (answerStatus s).masterKey = s.masterKey := rfl

/-! ### Accessors -/

@[simp] theorem bindKeys_ready (k : RoundKeySet) (s : State) : (bindKeys k s).ready = true := rfl
@[simp] theorem bindKeys_roundKey (k : RoundKeySet) (s : State) (i : Fin 16) :
    (bindKeys k s).roundKey i = some k[i] := rfl
@[simp] theorem applyReset_ready (s : State) : (applyReset s).ready = false := rfl
@[simp] theorem applyReset_roundKey (s : State) (i : Fin 16) : (applyReset s).roundKey i = none := rfl
@[simp] theorem applyReset_status (s : State) : (applyReset s).status = 0 := by
  simp [State.status]
@[simp] theorem present_block (p : Ports) (s : State) : (present p s).block = p.din := rfl
@[simp] theorem present_masterKey (p : Ports) (s : State) : (present p s).masterKey = p.keyin := rfl

/-- `READY = 0` is the state Uninitialized (10_state.md R23). -/
theorem ready_eq_false_iff (s : State) : s.ready = false ↔ s.engine = .uninit := by
  cases h : s.engine <;> simp [State.ready, h]

/-- `READY = 1` is the state Ready (10_state.md R23). -/
theorem ready_eq_true_iff (s : State) : s.ready = true ↔ ∃ k, s.engine = .ready k := by
  cases h : s.engine <;> simp [State.ready, h]

/-- In state Uninitialized no register holds a value (10_state.md R21). -/
theorem roundKey_of_uninit {s : State} (h : s.engine = .uninit) (i : Fin 16) : s.roundKey i = none := by
  simp [State.roundKey, h]

/-- In state Ready every register holds a value (10_state.md R21). -/
theorem roundKey_of_ready {s : State} {k : RoundKeySet} (h : s.engine = .ready k) (i : Fin 16) :
    s.roundKey i = some k[i] := by
  simp [State.roundKey, h]

/-- Registers that hold the values of `k` are the engine in state Ready with `k`. -/
theorem engine_eq_ready {s : State} {k : RoundKeySet} (h : ∀ i : Fin 16, s.roundKey i = some k[i]) :
    s.engine = .ready k := by
  cases he : s.engine with
  | uninit => simp [roundKey_of_uninit he] at h
  | ready k' =>
    have hk : k' = k := Vector.ext fun i hi => by
      simpa [roundKey_of_ready he] using h ⟨i, hi⟩
    rw [hk]

end Sys2Proof.Machine
end

