-- ==== Sys2Proof/Laws/Step.lean ====
section
/-! SUPPORT. What the shared operations, the commands and one step can do, said once; later proofs cite these instead
of unfolding the definitions. -/

namespace Sys2Proof.Machine

/-- ENCRYPT and DECRYPT without a key raise NOT_READY (60_exceptions.md R171). -/
theorem withStoredKeys_uninit {s : State} (c : RoundKeySet → Block → Block) (h : s.engine = .uninit) :
    withStoredKeys c s = raise .notReady s := by
  simp [withStoredKeys, h]

/-- ENCRYPT and DECRYPT with a key deliver the transformed block. -/
theorem withStoredKeys_ready {s : State} {k : RoundKeySet} (c : RoundKeySet → Block → Block)
    (h : s.engine = .ready k) : withStoredKeys c s = deliver .ok (some (c k s.block)) s := by
  simp [withStoredKeys, h]

/-- Everything the shared part of ENCRYPT and DECRYPT can do. -/
theorem withStoredKeys_cases (c : RoundKeySet → Block → Block) (s : State) :
    (s.engine = .uninit ∧ withStoredKeys c s = raise .notReady s) ∨
    (∃ k, s.engine = .ready k ∧ withStoredKeys c s = deliver .ok (some (c k s.block)) s) := by
  cases h : s.engine with
  | uninit => exact .inl ⟨rfl, withStoredKeys_uninit c h⟩
  | ready k => exact .inr ⟨k, rfl, withStoredKeys_ready c h⟩

/-- PROCESS with a legal round count delivers the partial transform (45_engine_commands.md R153). -/
theorem execProcess_legal {rc : BitVec 5} (enc : Bool) (s : State) (h : rc.toNat ≤ 16) :
    execProcess enc rc s =
      .next (deliver .ok (some (transform s.block (processKeys enc rc s.masterKey))) s) := by
  simp [execProcess, roundCount, Config.rcMax, h]

/-- PROCESS with a round count that has no legal word raises ILLEGAL_CMD (log 12). -/
theorem execProcess_illegal {rc : BitVec 5} (enc : Bool) (s : State) (h : 16 < rc.toNat) :
    execProcess enc rc s = .next (raise .illegalCmd s) := by
  simp [execProcess, roundCount, Config.rcMax, Nat.not_le.mpr h]

/-- LOADKEY in every state (45_engine_commands.md R150). -/
theorem exec_loadkey (s : State) :
    exec .loadkey s = .next (deliver .ok none (bindKeys (keySchedule s.masterKey) s)) := rfl

/-- ENCRYPT in state Ready (R151). -/
theorem exec_encrypt_ready {s : State} {k : RoundKeySet} (h : s.engine = .ready k) :
    exec .encrypt s = .next (deliver .ok (some (encryptBlock k s.block)) s) :=
  congrArg Host.Outcome.next (withStoredKeys_ready encryptBlock h)

/-- ENCRYPT in state Uninitialized (60_exceptions.md R171). -/
theorem exec_encrypt_uninit {s : State} (h : s.engine = .uninit) :
    exec .encrypt s = .next (raise .notReady s) :=
  congrArg Host.Outcome.next (withStoredKeys_uninit encryptBlock h)

/-- DECRYPT in state Ready (R152). -/
theorem exec_decrypt_ready {s : State} {k : RoundKeySet} (h : s.engine = .ready k) :
    exec .decrypt s = .next (deliver .ok (some (decryptBlock k s.block)) s) :=
  congrArg Host.Outcome.next (withStoredKeys_ready decryptBlock h)

/-- DECRYPT in state Uninitialized (R171). -/
theorem exec_decrypt_uninit {s : State} (h : s.engine = .uninit) :
    exec .decrypt s = .next (raise .notReady s) :=
  congrArg Host.Outcome.next (withStoredKeys_uninit decryptBlock h)

/-- PROCESS with a legal round count, in every state (R153). -/
theorem exec_process_legal {rc : BitVec 5} (enc : Bool) (s : State) (h : rc.toNat ≤ 16) :
    exec (.process enc rc) s =
      .next (deliver .ok (some (transform s.block (processKeys enc rc s.masterKey))) s) :=
  execProcess_legal enc s h

/-- PROCESS with a round count that has no legal word (log 12). -/
theorem exec_process_illegal {rc : BitVec 5} (enc : Bool) (s : State) (h : 16 < rc.toNat) :
    exec (.process enc rc) s = .next (raise .illegalCmd s) :=
  execProcess_illegal enc s h

/-- Everything a command can do: LOADKEY binds its schedule and answers `OK`; any other command answers `OK` with data
and changes nothing else, or raises a fault. -/
theorem exec_cases (i : Instr) (s : State) :
    (i = .loadkey ∧ exec i s = .next (deliver .ok none (bindKeys (keySchedule s.masterKey) s))) ∨
    (∃ d, i ≠ .loadkey ∧ exec i s = .next (deliver .ok (some d) s)) ∨
    (∃ f, i ≠ .loadkey ∧ exec i s = .next (raise f s)) := by
  cases i with
  | loadkey => exact .inl ⟨rfl, exec_loadkey s⟩
  | encrypt =>
    cases h : s.engine with
    | uninit => exact .inr (.inr ⟨_, by simp, exec_encrypt_uninit h⟩)
    | ready k => exact .inr (.inl ⟨_, by simp, exec_encrypt_ready h⟩)
  | decrypt =>
    cases h : s.engine with
    | uninit => exact .inr (.inr ⟨_, by simp, exec_decrypt_uninit h⟩)
    | ready k => exact .inr (.inl ⟨_, by simp, exec_decrypt_ready h⟩)
  | process enc rc =>
    by_cases h : rc.toNat ≤ 16
    · exact .inr (.inl ⟨_, by simp, exec_process_legal enc s h⟩)
    · exact .inr (.inr ⟨_, by simp, exec_process_illegal enc s (Nat.lt_of_not_le h)⟩)

/-- The next move of a list that has one. -/
theorem nextMove_cons {s : State} {m : HostMove} {rest : List HostMove} (h : s.pending = m :: rest) :
    nextMove s = some (m, { s with pending := rest }) := by
  simp [nextMove, h]

/-- Nothing pending: the block is idle. -/
theorem step_idle {s : State} (h : s.pending = []) : step s = .next s := by
  simp [step, nextMove, h]

/-- A reset move. -/
theorem step_reset {s : State} {rest : List HostMove} (h : s.pending = .reset :: rest) :
    step s = .next (applyReset { s with pending := rest }) := by
  simp [step, nextMove_cons h]

/-- A read of STATUS. -/
theorem step_readStatus {s : State} {rest : List HostMove} (h : s.pending = .readStatus :: rest) :
    step s = .next (answerStatus { s with pending := rest }) := by
  simp [step, nextMove_cons h]

/-- A command transaction. -/
theorem step_command {s : State} {p : Ports} {rest : List HostMove} (h : s.pending = .command p :: rest) :
    step s = performCommand (present p { s with pending := rest }) := by
  simp [step, nextMove_cons h]

/-- A transaction of a legal word performs its command (45_engine_commands.md R154). -/
theorem step_instr {s : State} {p : Ports} {rest : List HostMove} {i : Instr}
    (hp : s.pending = .command p :: rest) (hd : decode p.cmd = .instr i) :
    step s = exec i (present p { s with pending := rest }) := by
  simp only [step_command hp, performCommand, present_ports, hd]

/-- A transaction of a reserved word raises ILLEGAL_CMD (R154). -/
theorem step_reserved {s : State} {p : Ports} {rest : List HostMove} {r : Reserved}
    (hp : s.pending = .command p :: rest) (hd : decode p.cmd = .reserved r) :
    step s = .next (raise .illegalCmd (present p { s with pending := rest })) := by
  simp only [step_command hp, performCommand, present_ports, hd]

/-- Everything one step can do. -/
theorem step_cases (s : State) :
    (s.pending = [] ∧ step s = .next s) ∨
    (∃ rest, s.pending = .reset :: rest ∧ step s = .next (applyReset { s with pending := rest })) ∨
    (∃ rest, s.pending = .readStatus :: rest ∧ step s = .next (answerStatus { s with pending := rest })) ∨
    (∃ p rest i, s.pending = .command p :: rest ∧ decode p.cmd = .instr i ∧
      step s = exec i (present p { s with pending := rest })) ∨
    (∃ p rest r, s.pending = .command p :: rest ∧ decode p.cmd = .reserved r ∧
      step s = .next (raise .illegalCmd (present p { s with pending := rest }))) := by
  match h : s.pending with
  | [] => exact .inl ⟨rfl, step_idle h⟩
  | .reset :: rest => exact .inr (.inl ⟨rest, rfl, step_reset h⟩)
  | .readStatus :: rest => exact .inr (.inr (.inl ⟨rest, rfl, step_readStatus h⟩))
  | .command p :: rest =>
    cases hd : decode p.cmd with
    | instr i =>
      exact .inr (.inr (.inr (.inl ⟨p, rest, i, rfl, hd, step_instr h hd⟩)))
    | reserved r =>
      exact .inr (.inr (.inr (.inr ⟨p, rest, r, rfl, hd, step_reserved h hd⟩)))

/-- The only word of LOADKEY is 0x00 (30_encoding.md R61). -/
theorem decode_eq_loadkey_iff : ∀ w : CmdWord, decode w = .instr .loadkey ↔ w = 0x00#8 := by
  decide +kernel

/-- Everything a next state can be: idle, a reset, a STATUS read, a LOADKEY, another command with data, or a fault. -/
theorem step_next_cases {s t : State} (h : step s = .next t) :
    (s.pending = [] ∧ t = s) ∨
    (∃ rest, s.pending = .reset :: rest ∧ t = applyReset { s with pending := rest }) ∨
    (∃ rest, s.pending = .readStatus :: rest ∧ t = answerStatus { s with pending := rest }) ∨
    (∃ p rest, s.pending = .command p :: rest ∧ p.cmd = 0x00#8 ∧
      t = deliver .ok none (bindKeys (keySchedule p.keyin) (present p { s with pending := rest }))) ∨
    (∃ p rest d, s.pending = .command p :: rest ∧ p.cmd ≠ 0x00#8 ∧
      t = deliver .ok (some d) (present p { s with pending := rest })) ∨
    (∃ p rest f, s.pending = .command p :: rest ∧ p.cmd ≠ 0x00#8 ∧
      t = raise f (present p { s with pending := rest })) := by
  rcases step_cases s with ⟨hp, hs⟩ | ⟨rest, hp, hs⟩ | ⟨rest, hp, hs⟩ | ⟨p, rest, i, hp, hd, hs⟩ | ⟨p, rest, r, hp, hd, hs⟩
  · exact .inl ⟨hp, Host.Outcome.next.inj (h.symm.trans hs)⟩
  · exact .inr (.inl ⟨rest, hp, Host.Outcome.next.inj (h.symm.trans hs)⟩)
  · exact .inr (.inr (.inl ⟨rest, hp, Host.Outcome.next.inj (h.symm.trans hs)⟩))
  · have hne : i ≠ .loadkey → p.cmd ≠ 0x00#8 := fun hi h0 =>
      hi (Decoded.instr.inj (hd.symm.trans ((decode_eq_loadkey_iff _).2 h0)))
    rcases exec_cases i (present p { s with pending := rest }) with ⟨rfl, he⟩ | ⟨d, hi, he⟩ | ⟨f, hi, he⟩
    · exact .inr (.inr (.inr (.inl ⟨p, rest, hp, (decode_eq_loadkey_iff _).1 hd,
        Host.Outcome.next.inj (h.symm.trans (hs.trans he))⟩)))
    · exact .inr (.inr (.inr (.inr (.inl ⟨p, rest, d, hp, hne hi,
        Host.Outcome.next.inj (h.symm.trans (hs.trans he))⟩))))
    · exact .inr (.inr (.inr (.inr (.inr ⟨p, rest, f, hp, hne hi,
        Host.Outcome.next.inj (h.symm.trans (hs.trans he))⟩))))
  · refine .inr (.inr (.inr (.inr (.inr ⟨p, rest, .illegalCmd, hp, fun h0 => ?_,
      Host.Outcome.next.inj (h.symm.trans hs)⟩))))
    cases hd.symm.trans ((decode_eq_loadkey_iff _).2 h0)

/-- One step of the interface's run. -/
theorem run_succ (n : Nat) {s t : State} (h : step s = .next t) :
    Host.Core.run core (n + 1) s = Host.Core.run core n t := by
  have h' : core.step s = .next t := h
  simp only [Host.Core.run, h']

end Sys2Proof.Machine
end

