-- ==== Sys2Proof/Tests/Slice0.lean ====
section
/-! SUPPORT. Tests: each expected value stands in the spec, named by its vector or rule. And witnesses: for every
statement of Certificates/Slice0/Obligations.lean that has hypotheses, values that meet them together. -/

namespace Sys2Proof.Tests

open Sys2Proof.Machine

/-! ### Helpers -/

/-- The next state of an outcome. -/
def nextState : Host.Outcome State Fault Refusal → Option State
  | .next t => some t
  | .fault _ => none
  | .refused _ => none

/-- The key of the source's vector V1. -/
def keyV1 : MasterKey := 0x133457799BBCDFF1

/-- The state after reset with a command on the ports. -/
def atPorts (cmd : CmdWord) (din : Block) (keyin : MasterKey) : State :=
  { State.reset with ports := ⟨cmd, din, keyin⟩ }

/-- The same with the schedule of a key loaded. -/
def keyed (mk : MasterKey) (s : State) : State := { s with engine := .ready (keySchedule mk) }

/-- The same with moves of the host. -/
def offering (moves : List HostMove) (s : State) : State := { s with pending := moves }

/-! ### Well-formedness and decoding -/

/-- R60: `RC` is 0 to 16. -/
theorem test_wellFormed_refuses_17 : (Instr.process true 17#5).wellFormed = false := by decide

theorem test_wellFormed_refuses_31 : (Instr.process false 31#5).wellFormed = false := by decide

theorem test_wellFormed_accepts_16 : (Instr.process true 16#5).wellFormed = true := by decide

/-- R61: `OP = 00`. -/
theorem test_decode_loadkey : decode 0b00000000#8 = .instr .loadkey := by decide

/-- R61: `OP = 01`. -/
theorem test_decode_encrypt : decode 0b01000000#8 = .instr .encrypt := by decide

/-- R61: `OP = 10`. -/
theorem test_decode_decrypt : decode 0b10000000#8 = .instr .decrypt := by decide

/-- V60: `0xC1` and `0xF0`. -/
theorem test_decode_process :
    decode 0b11000001#8 = .instr (.process false 1#5) ∧ decode 0b11110000#8 = .instr (.process true 16#5) := by
  decide

/-- V60: reserved words. -/
theorem test_decode_reserved :
    decode 0b00100000#8 = .reserved .nonzeroFields ∧ decode 0b11011111#8 = .reserved .roundCountAbove16 := by
  decide

/-! ### The pure functions -/

/-- V20 and V29 tell the right reading of the tables from the two wrong ones. -/
theorem test_permute_single_bits :
    permute tableIP 0x8000000000000000#64 = 0x0000000001000000#64 ∧
    permute tablePC1 0x0000000000000002#64 = 0x00000008000000#56 := by
  decide +kernel

/-- V33. -/
theorem test_rotl28 : rotl28 0xC000000#28 2 = 0x0000003#28 ∧ rotl28 0xF0CCAAF#28 1 = 0xE19955F#28 := by
  decide

/-- R123: group `011011` of box 0 is cell 5, group `100000` is cell 4. -/
theorem test_sbox_row_and_column :
    sboxCell 0 0b011011#6 = 5#4 ∧ sboxCell 0 0b100000#6 = 4#4 ∧ sboxCell 7 0b111111#6 = 11#4 := by
  decide +kernel

/-- V41. -/
theorem test_roundF : roundF 0x12345678#32 0xA5A5A5A5A5A5#48 = 0x55AA4432#32 := by decide +kernel

/-! ### The commands -/

/-- V3: `K[0]` and `K[15]` of V1's key. -/
theorem test_loadkey_registers :
    (nextState (exec .loadkey (atPorts 0x00 0 keyV1))).map (fun t => (t.roundKey 0, t.roundKey 15, t.ready)) =
      some (some 0x1B02EFFC7072#48, some 0xCB3D8B0E17F5#48, true) := by
  decide +kernel

/-- V1. -/
theorem test_encrypt_known_answer :
    (nextState (exec .encrypt (keyed keyV1 (atPorts 0x40 0x0123456789ABCDEF 0)))).map State.answers =
      some [.response .ok (some 0x85E813540F0AB405#64)] := by
  decide +kernel

/-- P2 line 1. -/
theorem test_encrypt_before_key :
    nextState (exec .encrypt (atPorts 0x40 0x8787878787878787 0)) =
      some { atPorts 0x40 0x8787878787878787 0 with err := true, answers := [.response .notReady none] } := by
  decide

/-- V2, decryption. -/
theorem test_decrypt_known_answer :
    (nextState (exec .decrypt (keyed 0x0E329232EA6D0D73 (atPorts 0x80 0 0)))).map State.answers =
      some [.response .ok (some 0x8787878787878787#64)] := by
  decide +kernel

/-- P2 line 2. -/
theorem test_decrypt_before_key :
    (nextState (exec .decrypt (atPorts 0x80 0 0))).map State.status = some 0b10#2 := by
  decide

/-- V50: `RC = 3`, `ENC = 0`. -/
theorem test_process_reverse :
    (nextState (exec (.process false 3#5) (atPorts 0xC3 0x0123456789ABCDEF keyV1))).map State.answers =
      some [.response .ok (some 0x8649549A0AD6C58B#64)] := by
  decide +kernel

/-- V50: `RC = 2`, `ENC = 1`. -/
theorem test_process_forward :
    (nextState (exec (.process true 2#5) (atPorts 0xE2 0x0123456789ABCDEF keyV1))).map State.answers =
      some [.response .ok (some 0x9DA4CEE1048CEEC0#64)] := by
  decide +kernel

/-! ### The step -/

/-- P5 line 5: a reserved word with the `OP` of ENCRYPT before any key. -/
theorem test_step_reserved_word :
    (nextState (step (offering [.command ⟨0x41, 0x0123456789ABCDEF, 0⟩] State.reset))).map
        (fun t => (t.answers, t.status)) =
      some ([.response .illegalCmd none], 0b10#2) := by
  decide

/-- P5 line 4: reset discards the key and clears `ERR`. -/
theorem test_step_reset :
    (nextState (step (offering [.reset] (setErr (keyed keyV1 State.reset))))).map
        (fun t => (t.ready, t.status)) = some (false, 0b00#2) := by
  decide

/-- The word placed by the host's interface is the first instruction after reset. -/
theorem test_withFetchWord_runs_encrypt :
    (nextState (step (State.reset.withFetchWord 8 0x40))).map State.answers =
      some [.response .notReady none] := by
  decide

/-- R44: `b0` is the most significant byte. -/
theorem test_byte_order :
    valueOfBytes #v[0x01, 0x23, 0x45, 0x67, 0x89, 0xAB, 0xCD, 0xEF] = 0x0123456789ABCDEF#64 := by
  decide

/-! ### Witnesses: encoding -/

theorem witness_decodeOfEncode : (Instr.process true 16#5).wellFormed = true := by decide

theorem witness_encodeOfDecode : decode 0xC0#8 = .instr (.process false 0#5) := by decide

theorem witness_assemblerLines : (16#5).toNat ≤ 16 := by decide

/-! ### Witnesses: the pure functions -/

theorem witness_permuteCopiesTableBits : 47 < 48 ∧ tableE.entries.length = 48 := by decide

/-- The least and the greatest position, the first and the last entry. -/
theorem witness_permuteIsLinear :
    (1 ≤ 1 ∧ 1 ≤ 32 ∧ 0 < 48) ∧ (1 ≤ 32 ∧ 32 ≤ 32 ∧ 47 < 48) := by decide

/-- Positions that wrap and the last position. -/
theorem witness_rotation :
    ((1 = 1 ∨ 1 = 2) ∧ 1 ≤ 1 ∧ 1 ≤ 28) ∧ ((2 = 1 ∨ 2 = 2) ∧ 1 ≤ 28 ∧ 28 ≤ 28) := by decide

theorem witness_keyScheduleRounds : 0 < 16 ∧ 15 < 16 := by decide

theorem witness_parity : 0x0101010101010101#64 &&& 0xFEFEFEFEFEFEFEFE#64 = 0 := by decide

theorem witness_expansion : (0 < 8 ∧ 0 < 6) ∧ (7 < 8 ∧ 5 < 6) := by decide

/-- `x` all ones, the last box: row 3, column 15. -/
theorem witness_substitution :
    (3 : Fin 4).val = 2 * (((0xFFFFFFFFFFFF#48).extractLsb' (42 - 6 * (7 : Fin 8).val) 6).getLsbD 5).toNat +
      (((0xFFFFFFFFFFFF#48).extractLsb' (42 - 6 * (7 : Fin 8).val) 6).getLsbD 0).toNat ∧
    (15 : Fin 16).val =
      (((0xFFFFFFFFFFFF#48).extractLsb' (42 - 6 * (7 : Fin 8).val) 6).extractLsb' 1 4).toNat := by
  decide

/-- Two different operand pairs with one mixed value (R129). -/
theorem witness_roundFunction :
    permute tableE 0x00000000#32 ^^^ 0xFFFFFFFFFFFF#48 = permute tableE 0xFFFFFFFF#32 ^^^ 0x000000000000#48 := by
  decide +kernel

theorem witness_transformRounds : 0 < [0x1B02EFFC7072#48].length := by decide

/-! ### Witnesses: state and reset -/

theorem witness_statusRead : (offering [.readStatus] State.reset).pending = .readStatus :: [] := rfl

theorem witness_resetMove : (offering [.reset] State.reset).pending = .reset :: [] := rfl

/-- A reset of a state with a key and a recorded fault meets all three alternatives. -/
theorem witness_resetIsTheOnlyWayBack :
    ∃ s t : State, step s = .next t ∧ (s.ready = true ∧ t.ready = false) ∧ (s.err = true ∧ t.err = false) ∧
      (s.roundKey 0).isSome = true ∧ t.roundKey 0 = none :=
  ⟨offering [.reset] (setErr (keyed 0 State.reset)), _, step_reset rfl, ⟨rfl, rfl⟩, ⟨rfl, rfl⟩, rfl, rfl⟩

theorem witness_errIsSticky_fault :
    ∃ s t : State, step s = .next t ∧ s.err = false ∧ t.err = true ∧
      ∃ a, t.answers = s.answers ++ [a] ∧ a.isFault = true :=
  ⟨offering [.command ⟨0x41, 0, 0⟩] State.reset, _, step_reserved (r := .nonzeroFields) rfl (by decide), rfl, rfl,
    _, rfl, rfl⟩

theorem witness_errIsSticky_reset :
    ∃ s t : State, step s = .next t ∧ s.err = true ∧ t.err = false :=
  ⟨offering [.reset] (setErr State.reset), _, step_reset rfl, rfl, rfl⟩

theorem witness_errIsSticky_exec : ∃ t, exec .loadkey (atPorts 0x00 0 keyV1) = .next t := ⟨_, exec_loadkey _⟩

/-! ### Witnesses: commands -/

/-- The key of V1 loaded, and a key on `KEYIN` that differs from it in its parity bits. -/
theorem witness_loadkey_parity :
    ∃ (mk m : MasterKey) (s t : State), s.ports.keyin = mk ^^^ m ∧ m &&& 0xFEFEFEFEFEFEFEFE#64 = 0 ∧
      s.engine = .ready (keySchedule mk) ∧ exec .loadkey s = .next t :=
  ⟨keyV1, 0x0101010101010101#64, keyed keyV1 (atPorts 0x00 0 (keyV1 ^^^ 0x0101010101010101#64)), _, rfl, by decide,
    rfl, exec_loadkey _⟩

/-- ENCRYPT and DECRYPT with a key. -/
theorem witness_cipher_ready :
    ∀ i : Fin 16, (keyed keyV1 State.reset).roundKey i = some (keySchedule keyV1)[i] := fun _ => rfl

/-- ENCRYPT and DECRYPT without a key. -/
theorem witness_cipher_uninit : State.reset.ready = false := rfl

theorem witness_process : (0#5).toNat ≤ 16 ∧ (16#5).toNat ≤ 16 := by decide

theorem witness_processIgnoresTheEngine :
    (keyed 0 (atPorts 0xF0 1 2)).ports = (atPorts 0xF0 1 2).ports ∧ (16#5).toNat ≤ 16 := ⟨rfl, by decide⟩

theorem witness_illFormedProcess : 16 < (17#5).toNat ∧ 16 < (31#5).toNat := by decide

theorem witness_ignoredPorts : (Instr.decrypt = .encrypt ∨ Instr.decrypt = .decrypt) := .inr rfl

/-- A command other than LOADKEY that faults. -/
theorem witness_commandFrames_fault :
    ∃ t, exec .encrypt State.reset = .next t ∧ Instr.encrypt ≠ .loadkey := ⟨_, exec_encrypt_uninit rfl, by decide⟩

/-- LOADKEY, and for the repetition of a command. -/
theorem witness_commandFrames_loadkey :
    ∃ t, exec .loadkey (atPorts 0x00 0 keyV1) = .next t := ⟨_, exec_loadkey _⟩

/-! ### Witnesses: faults -/

theorem witness_everyCommandAnswersOnce :
    ∃ s t p rest, s.pending = .command p :: rest ∧ step s = .next t :=
  ⟨offering [.command ⟨0x40, 0, 0⟩] State.reset, _, _, _, rfl,
    (step_instr rfl (i := .encrypt) (by decide)).trans (exec_encrypt_uninit rfl)⟩

theorem witness_notReady :
    (Instr.encrypt = .encrypt ∨ Instr.encrypt = .decrypt) ∧ State.reset.ready = false := ⟨.inl rfl, rfl⟩

theorem witness_notReady_process : ∃ t, exec (.process true 16#5) State.reset = .next t :=
  ⟨_, exec_process_legal true State.reset (by decide)⟩

theorem witness_notReady_step :
    ∃ (s t : State) (p : Ports) (rest : List HostMove) (d : Option Block),
      s.pending = .command p :: rest ∧ step s = .next t ∧ t.answers = s.answers ++ [.response .notReady d] :=
  ⟨offering [.command ⟨0x80, 0, 0⟩] State.reset, _, ⟨0x80, 0, 0⟩, [], none, rfl,
    (step_instr (p := ⟨0x80, 0, 0⟩) rfl (i := .decrypt) (by decide)).trans (exec_decrypt_uninit rfl), rfl⟩

/-- The first and the last reserved word of the map. -/
theorem witness_reservedWords :
    (∀ w ∈ [0x01#8, 0x3F#8, 0xD1#8, 0xFF#8], ¬(w = 0x00#8 ∨ w = 0x40#8 ∨ w = 0x80#8 ∨
      (w.extractLsb' 6 2 = 3#2 ∧ (w.extractLsb' 0 5).toNat ≤ 16))) ∧
    (offering [.command ⟨0x01, 0, 0⟩] State.reset).pending = .command ⟨0x01, 0, 0⟩ :: [] := by
  decide

theorem witness_faultsArePrecise :
    ∃ (s t : State) (p : Ports) (rest : List HostMove) (r : Resp) (d : Option Block),
      s.pending = .command p :: rest ∧ step s = .next t ∧ t.answers = s.answers ++ [.response r d] ∧ r ≠ .ok :=
  ⟨offering [.command ⟨0x41, 0, 0⟩] State.reset, _, _, _, _, _, rfl,
    step_reserved (r := .nonzeroFields) rfl (by decide), rfl, by decide⟩

/-! ### Witnesses: steps and sequences -/

theorem witness_step_legal :
    (offering [.command ⟨0x00, 0, keyV1⟩] State.reset).pending = .command ⟨0x00, 0, keyV1⟩ :: [] ∧
      decode 0x00#8 = .instr .loadkey := by
  decide

theorem witness_step_reserved :
    (offering [.command ⟨0xFF, 0, 0⟩] State.reset).pending = .command ⟨0xFF, 0, 0⟩ :: [] ∧
      decode 0xFF#8 = .reserved .roundCountAbove16 := by
  decide

theorem witness_idle : State.reset.pending = [] := rfl

theorem witness_placedWord : Instr.decrypt.wellFormed = true := by decide

theorem witness_nextCommand_encrypt :
    (offering [.command ⟨0x00, 0, keyV1⟩, .command ⟨0x40, 1, 0⟩] State.reset).pending =
      .command ⟨0x00#8, 0, keyV1⟩ :: .command ⟨0x40#8, 1, 0⟩ :: [] := rfl

theorem witness_nextCommand_decrypt :
    (offering [.command ⟨0x00, 0, keyV1⟩, .command ⟨0x80, 1, 0⟩] State.reset).pending =
      .command ⟨0x00#8, 0, keyV1⟩ :: .command ⟨0x80#8, 1, 0⟩ :: [] := rfl

/-- A state with a key, and the block that its first command delivers presented to its second one. -/
theorem decryptReturns_state (k : RoundKeySet) (b c : Block) (w w' : CmdWord) :
    ∃ s : State, s.engine = .ready k ∧ s.pending = .command ⟨w, b, 0⟩ :: .command ⟨w', c, 0⟩ :: [] :=
  ⟨{ State.reset with engine := .ready k, pending := [.command ⟨w, b, 0⟩, .command ⟨w', c, 0⟩] }, rfl, rfl⟩

/-- Both orders, with the delivered block presented again. -/
theorem witness_decryptReturns (w w' : CmdWord) (h : (w = 0x40#8 ∧ w' = 0x80#8) ∨ (w = 0x80#8 ∧ w' = 0x40#8)) :
    ∃ (s t : State) (b c : Block), s.ready = true ∧
      s.pending = .command ⟨w, b, 0⟩ :: .command ⟨w', c, 0⟩ :: [] ∧
      step s = .next t ∧ t.answers = s.answers ++ [.response .ok (some c)] := by
  have k : RoundKeySet := keySchedule keyV1
  rcases h with ⟨rfl, rfl⟩ | ⟨rfl, rfl⟩
  · obtain ⟨s, hk, hp⟩ := decryptReturns_state k 1 (encryptBlock k 1) 0x40#8 0x80#8
    exact ⟨s, _, 1, _, (ready_eq_true_iff s).2 ⟨k, hk⟩, hp,
      (step_instr (i := .encrypt) hp (by decide)).trans (exec_encrypt_ready (k := k) hk), deliver_answers _ _ _⟩
  · obtain ⟨s, hk, hp⟩ := decryptReturns_state k 1 (decryptBlock k 1) 0x80#8 0x40#8
    exact ⟨s, _, 1, _, (ready_eq_true_iff s).2 ⟨k, hk⟩, hp,
      (step_instr (i := .decrypt) hp (by decide)).trans (exec_decrypt_ready (k := k) hk), deliver_answers _ _ _⟩

/-- What two commands leave, ENCRYPT and a legal PROCESS, from a state with a key. -/
theorem commandsCommute_run {s : State} {k : RoundKeySet} {p q : Ports} {rest : List HostMove}
    (hk : s.engine = .ready k) (hp : s.pending = .command p :: .command q :: rest)
    (hd : decode p.cmd = .instr .encrypt) (he : decode q.cmd = .instr (.process true 1#5)) :
    ∃ (a b : Block) (t : State), Host.Core.run core 2 s = .next t ∧
      t.answers = s.answers ++ [.response .ok (some a), .response .ok (some b)] := by
  have h1 := (step_instr hp hd).trans (exec_encrypt_ready (k := k) hk)
  generalize encryptBlock k _ = a at h1
  generalize ht : deliver .ok (some a) _ = t1 at h1
  have hq : t1.pending = .command q :: rest := by rw [← ht]; simp
  have ha : t1.answers = s.answers ++ [.response .ok (some a)] := by rw [← ht]; simp
  have h2 := (step_instr hq he).trans (exec_process_legal true _ (by decide))
  generalize transform _ _ = b at h2
  refine ⟨a, b, _, ((run_succ 1 h1).trans (run_succ 0 h2)).trans rfl, ?_⟩
  simp [ha]

theorem witness_commandsCommute :
    ∃ (s : State) (p q : Ports) (rest : List HostMove) (a b : Block) (t : State),
      p.cmd ≠ 0x00#8 ∧ q.cmd ≠ 0x00#8 ∧ s.pending = .command p :: .command q :: rest ∧
      Host.Core.run core 2 s = .next t ∧
      t.answers = s.answers ++ [.response .ok (some a), .response .ok (some b)] := by
  have hr := commandsCommute_run (s := offering [.command ⟨0x40, 1, 0⟩, .command ⟨0xE1, 2, 3⟩]
    (keyed keyV1 State.reset)) (k := keySchedule keyV1) (p := ⟨0x40, 1, 0⟩) (q := ⟨0xE1, 2, 3⟩) (rest := [])
    rfl rfl (by decide) (by decide)
  obtain ⟨a, b, t, hrun, ha⟩ := hr
  exact ⟨_, ⟨0x40, 1, 0⟩, ⟨0xE1, 2, 3⟩, [], a, b, t, by decide, by decide, rfl, hrun, ha⟩

/-- The words of the three commands whose answers R155 gives. -/
theorem witness_history :
    (⟨0x40, 1, 0⟩ : Ports).cmd = 0x40#8 ∧ (⟨0x80, 1, 0⟩ : Ports).cmd = 0x80#8 ∧
      (⟨0xF0, 1, 0⟩ : Ports).cmd = 3#2 ++ BitVec.ofBool true ++ 16#5 ∧ (16#5).toNat ≤ 16 := by
  decide

/-! ### Witnesses: invariants -/

/-- LOADKEY from reset changes `READY`. -/
theorem witness_onlyLoadkeyAndReset :
    ∃ s t : State, step s = .next t ∧ t.ready ≠ s.ready :=
  ⟨offering [.command ⟨0x00, 0, keyV1⟩] State.reset, _,
    (step_instr rfl (i := .loadkey) (by decide)).trans (exec_loadkey _), by decide⟩

/-- A state with a key and a reported fault meets the invariant and steps. -/
theorem witness_stepKeepsTheInvariant :
    ∃ s t : State, s.Inv ∧ s.err = true ∧ step s = .next t :=
  ⟨{ keyed keyV1 State.reset with err := true, pending := [.reset], answers := [.response .illegalCmd none] }, _,
    ⟨fun _ h => ⟨keyV1, (Engine.ready.inj h).symm⟩, fun _ => ⟨_, List.mem_singleton.2 rfl, rfl⟩, by decide⟩, rfl,
    step_reset rfl⟩

end Sys2Proof.Tests
end

section
/-! PROOFS. The statements on the state: reset, `STATUS` and the sticky `ERR` (10_state.md R24, R25, R33). -/

namespace Sys2Proof.Machine

/-! ### Reset -/

/-- The reset state is a fixed point of `RESET`, so the laws of `applyReset` speak of it. -/
theorem applyReset_reset : applyReset State.reset = State.reset := rfl

/-- Settles O28: each part is the law of `applyReset` at the reset state. -/
theorem resetLeavesNoKey : Obligations.ResetLeavesNoKey := by
  unfold Obligations.ResetLeavesNoKey
  rw [← applyReset_reset]
  exact ⟨applyReset_ready _, applyReset_err _, applyReset_roundKey _, applyReset_status _⟩

/-! ### `STATUS` -/

/-- `STATUS[0]` (R25). -/
@[simp] theorem status_getLsbD_zero (s : State) : s.status.getLsbD 0 = s.ready := by
  cases h : s.ready <;> cases h' : s.err <;> simp [State.status, h, h']

/-- `STATUS[1]` (R25). -/
@[simp] theorem status_getLsbD_one (s : State) : s.status.getLsbD 1 = s.err := by
  cases h : s.ready <;> cases h' : s.err <;> simp [State.status, h, h']

/-- Settles O30: the bits are those of `STATUS`, and the step of a read only takes the move off the list and answers. -/
theorem statusReadHasNoSideEffect : Obligations.StatusReadHasNoSideEffect := by
  unfold Obligations.StatusReadHasNoSideEffect
  exact ⟨fun s => ⟨status_getLsbD_zero s, status_getLsbD_one s⟩, fun _ _ hp => step_readStatus hp⟩

/-! ### `ERR` -/

/-- The response of a fault reports a fault (60_exceptions.md R170). -/
@[simp] theorem isFault_resp (f : CmdFault) (d : Option Block) : (Answer.response f.resp d).isFault = true := by
  cases f <;> rfl

/-- The step gives the host one answer, and that answer reports a fault. -/
def AnswersFault (s t : State) : Prop := ∃ a, t.answers = s.answers ++ [a] ∧ a.isFault = true

/-- A step that gives the host nothing answers no fault. -/
theorem not_answersFault_of_eq {s t : State} (h : t.answers = s.answers) : ¬ AnswersFault s t := by
  simp [AnswersFault, h]

/-- A step whose one answer reports no fault answers no fault. -/
theorem not_answersFault_of_isFault {s t : State} {a : Answer} (h : t.answers = s.answers ++ [a])
    (ha : a.isFault = false) : ¬ AnswersFault s t := by
  simp [AnswersFault, h, ha]

/-- What one step does to `ERR` (R24, R173, R190): a reset clears it, a fault sets it, every other step keeps it. -/
theorem step_err_cases {s t : State} (h : step s = .next t) :
    ((∃ rest, s.pending = .reset :: rest) ∧ t.err = false ∧ ¬ AnswersFault s t) ∨
    (t.err = true ∧ AnswersFault s t) ∨
    (t.err = s.err ∧ ¬ AnswersFault s t) := by
  rcases step_next_cases h with ⟨-, rfl⟩ | ⟨rest, hp, rfl⟩ | ⟨rest, -, rfl⟩ | ⟨p, rest, -, -, rfl⟩ |
    ⟨p, rest, d, -, -, rfl⟩ | ⟨p, rest, f, -, -, rfl⟩
  · exact .inr (.inr ⟨rfl, not_answersFault_of_eq rfl⟩)
  · exact .inl ⟨⟨rest, hp⟩, rfl, not_answersFault_of_eq rfl⟩
  · exact .inr (.inr ⟨rfl, not_answersFault_of_isFault rfl rfl⟩)
  · exact .inr (.inr ⟨rfl, not_answersFault_of_isFault rfl rfl⟩)
  · exact .inr (.inr ⟨rfl, not_answersFault_of_isFault rfl rfl⟩)
  · exact .inr (.inl ⟨rfl, _, rfl, isFault_resp f none⟩)

/-- The same state with another value in `ERR`. -/
def withErr (b : Bool) (s : State) : State := { s with err := b }

/-- ENCRYPT and DECRYPT from a state that differs in `ERR` end in a state that differs at most in `ERR`. -/
theorem withStoredKeys_withErr (c : RoundKeySet → Block → Block) (b : Bool) (s : State) :
    ∃ b', withStoredKeys c (withErr b s) = withErr b' (withStoredKeys c s) := by
  rcases withStoredKeys_cases c s with ⟨he, hs⟩ | ⟨k, he, hs⟩
  · exact ⟨true, hs ▸ withStoredKeys_uninit c he⟩
  · exact ⟨b, hs ▸ withStoredKeys_ready c he⟩

/-- No command reads `ERR` (R24): from a state that differs in `ERR` it ends in a state that differs at most in
`ERR`. -/
theorem exec_withErr {i : Instr} {s t : State} (b : Bool) (h : exec i s = .next t) :
    ∃ b', exec i (withErr b s) = .next (withErr b' t) := by
  cases i with
  | loadkey =>
    cases h
    exact ⟨b, exec_loadkey _⟩
  | encrypt =>
    cases h
    exact (withStoredKeys_withErr encryptBlock b s).imp fun _ => congrArg Host.Outcome.next
  | decrypt =>
    cases h
    exact (withStoredKeys_withErr decryptBlock b s).imp fun _ => congrArg Host.Outcome.next
  | process enc rc =>
    by_cases hrc : rc.toNat ≤ 16
    · cases (exec_process_legal enc s hrc).symm.trans h
      exact ⟨b, exec_process_legal enc _ hrc⟩
    · have hrc := Nat.lt_of_not_le hrc
      cases (exec_process_illegal enc s hrc).symm.trans h
      exact ⟨true, exec_process_illegal enc _ hrc⟩

/-- Settles O33: the three clauses on steps are read off the cases of `step_err_cases`. -/
theorem errIsSticky : Obligations.ErrIsSticky := by
  unfold Obligations.ErrIsSticky
  refine ⟨rfl, fun s t h hf => ?faultSets, fun s t h h0 h1 => ?setByFault, fun s t h h1 h0 => ?clearedByReset,
    fun i s t b h => ?notRead, status_getLsbD_one⟩
  case faultSets =>
    rcases step_err_cases h with ⟨-, -, hn⟩ | ⟨ht, -⟩ | ⟨-, hn⟩
    · exact absurd hf hn
    · exact ht
    · exact absurd hf hn
  case setByFault =>
    rcases step_err_cases h with ⟨-, ht, -⟩ | ⟨-, hf⟩ | ⟨ht, -⟩
    · simp [ht] at h1
    · exact hf
    · simp [ht, h0] at h1
  case clearedByReset =>
    rcases step_err_cases h with ⟨hp, -, -⟩ | ⟨ht, -⟩ | ⟨ht, -⟩
    · exact hp
    · simp [ht] at h0
    · simp [ht, h1] at h0
  case notRead =>
    obtain ⟨b', hu⟩ := exec_withErr b h
    exact ⟨_, hu, rfl, rfl⟩

end Sys2Proof.Machine
end

section
/-! PROOFS. Byte order at the ports (20_memory.md R44): a port value is the base-256 integer of its bytes, and the
round trips between bytes and values are facts about the digits of that integer. -/

namespace Sys2Proof.Machine

/-- Concatenation as arithmetic: the left part is shifted by a factor. -/
theorem toNat_append_eq_add {m n : Nat} (x : BitVec m) (y : BitVec n) :
    (x ++ y).toNat = x.toNat * 2 ^ n + y.toNat := by
  rw [BitVec.toNat_append, ← Nat.shiftLeft_add_eq_or_of_lt y.isLt, Nat.shiftLeft_eq]

/-- The integer of R44, `b0` the most significant byte. -/
theorem toNat_valueOfBytes (b : Vector Byte 8) :
    (valueOfBytes b).toNat =
      b[0].toNat * 2 ^ 56 + b[1].toNat * 2 ^ 48 + b[2].toNat * 2 ^ 40 + b[3].toNat * 2 ^ 32 +
        b[4].toNat * 2 ^ 24 + b[5].toNat * 2 ^ 16 + b[6].toNat * 2 ^ 8 + b[7].toNat := by
  simp only [valueOfBytes, toNat_append_eq_add]
  omega

/-- Byte `i` of a value is its base-256 digit of weight `7 - i`. -/
theorem getElem_bytesOfValue (v : BitVec 64) {i : Nat} (hi : i < 8) :
    (bytesOfValue v)[i] = v.extractLsb' (8 * (7 - i)) 8 := by
  interval_cases i <;> rfl

/-- The digit of weight `7 - i` of the integer of R44 is byte `i`. -/
theorem extractLsb'_valueOfBytes (b : Vector Byte 8) {i : Nat} (hi : i < 8) :
    (valueOfBytes b).extractLsb' (8 * (7 - i)) 8 = b[i] := by
  apply BitVec.eq_of_toNat_eq
  rw [BitVec.extractLsb'_toNat, Nat.shiftRight_eq_div_pow, toNat_valueOfBytes]
  interval_cases i <;> omega

@[simp] theorem bytesOfValue_valueOfBytes (b : Vector Byte 8) : bytesOfValue (valueOfBytes b) = b :=
  Vector.ext fun _ hi => (getElem_bytesOfValue _ hi).trans (extractLsb'_valueOfBytes b hi)

/-- A value is the sum of its base-256 digits, each times its weight. -/
@[simp] theorem valueOfBytes_bytesOfValue (v : BitVec 64) : valueOfBytes (bytesOfValue v) = v := by
  apply BitVec.eq_of_toNat_eq
  simp only [toNat_valueOfBytes, getElem_bytesOfValue, BitVec.extractLsb'_toNat, Nat.shiftRight_eq_div_pow]
  omega

/-- Settles O26: the integer formula is that of `toNat_valueOfBytes`, and the two readings are inverse. -/
theorem bytesAreReadBigEndian : Obligations.BytesAreReadBigEndian := by
  unfold Obligations.BytesAreReadBigEndian
  exact ⟨fun b => ⟨toNat_valueOfBytes b, bytesOfValue_valueOfBytes b⟩, valueOfBytes_bytesOfValue⟩

end Sys2Proof.Machine
end

section
/-! PROOFS. The opcode map (30_encoding.md R61): what each command's decoding says of the fields of the word, and each
row of the map, a match and a mask, as a condition on the same fields. -/

namespace Sys2Proof.Machine

/-! ### The decoder by the fields -/

/-- A word with `OP` 0, 1 or 2 gives an instruction only when the low field is zero (R62). -/
theorem decodePlain_eq_instr_iff (i j : Instr) (w : CmdWord) :
    decodePlain i w = .instr j ↔ lowField w = 0 ∧ i = j := by
  unfold decodePlain
  split_ifs with h
  · simp only [h, Decoded.instr.injEq, true_and]
  · simp only [h, false_and]

/-- The branch of the decoder that `OP` selects (R62). -/
theorem decode_cases (w : CmdWord) :
    (opField w = 0 ∧ decode w = decodePlain .loadkey w) ∨
    (opField w = 1 ∧ decode w = decodePlain .encrypt w) ∨
    (opField w = 2 ∧ decode w = decodePlain .decrypt w) ∨
    (opField w = 3 ∧ (rcField w).toNat ≤ 16 ∧ decode w = .instr (.process (encField w) (rcField w))) ∨
    (opField w = 3 ∧ ¬(rcField w).toNat ≤ 16 ∧ decode w = .reserved .roundCountAbove16) := by
  have op_eq_three : opField w ≠ 0 → opField w ≠ 1 → opField w ≠ 2 → opField w = 3 := by bv_omega
  unfold decode
  split_ifs with h0 h1 h2 hrc
  · exact .inl ⟨h0, rfl⟩
  · exact .inr (.inl ⟨h1, rfl⟩)
  · exact .inr (.inr (.inl ⟨h2, rfl⟩))
  · exact .inr (.inr (.inr (.inl ⟨op_eq_three h0 h1 h2, hrc, rfl⟩)))
  · exact .inr (.inr (.inr (.inr ⟨op_eq_three h0 h1 h2, hrc, rfl⟩)))

/-- ENCRYPT is `OP` 1 over a zero low field. -/
theorem decode_eq_encrypt_iff_fields (w : CmdWord) :
    decode w = .instr .encrypt ↔ opField w = 1 ∧ lowField w = 0 := by
  rcases decode_cases w with ⟨h, hd⟩ | ⟨h, hd⟩ | ⟨h, hd⟩ | ⟨h, -, hd⟩ | ⟨h, -, hd⟩ <;>
    simp [h, hd, decodePlain_eq_instr_iff]

/-- DECRYPT is `OP` 2 over a zero low field. -/
theorem decode_eq_decrypt_iff_fields (w : CmdWord) :
    decode w = .instr .decrypt ↔ opField w = 2 ∧ lowField w = 0 := by
  rcases decode_cases w with ⟨h, hd⟩ | ⟨h, hd⟩ | ⟨h, hd⟩ | ⟨h, -, hd⟩ | ⟨h, -, hd⟩ <;>
    simp [h, hd, decodePlain_eq_instr_iff]

/-- PROCESS is `OP` 3 with a legal round count, and its operands are `ENC` and `RC`. -/
theorem decode_eq_process_iff_fields (w : CmdWord) (enc : Bool) (rc : BitVec 5) :
    decode w = .instr (.process enc rc) ↔
      (opField w = 3 ∧ (rcField w).toNat ≤ 16) ∧ enc = encField w ∧ rc = rcField w := by
  rcases decode_cases w with ⟨h, hd⟩ | ⟨h, hd⟩ | ⟨h, hd⟩ | ⟨h, hr, hd⟩ | ⟨h, hr, hd⟩ <;>
    simp [*, decodePlain_eq_instr_iff, eq_comm]

/-- A word is rejected exactly when it decodes to no instruction. -/
theorem toOption_eq_none_iff (d : Decoded) : d.toOption = none ↔ ∀ i, d ≠ .instr i := by
  cases d <;> simp [Decoded.toOption]

/-! ### The rows by the fields -/

/-- `CMD` is `OP` over the low field (R60). -/
theorem opField_append_lowField (w : CmdWord) : opField w ++ lowField w = w :=
  BitVec.extractLsb'_append_extractLsb'

/-- A word is fixed by `OP` and the low field (R60). -/
theorem eq_iff_fields (w v : CmdWord) : w = v ↔ opField w = opField v ∧ lowField w = lowField v := by
  constructor
  · rintro rfl
    exact ⟨rfl, rfl⟩
  · rintro ⟨hop, hlow⟩
    rw [← opField_append_lowField w, ← opField_append_lowField v, hop, hlow]

/-- A row whose mask is 0xFF fixes every bit: it holds one word. -/
theorem fullMaskRow_iff (w v : CmdWord) : w &&& 0xFF#8 = v ↔ w = v :=
  iff_of_eq (congrArg (· = v) BitVec.and_allOnes)

/-- The two rows of PROCESS: `RC` below 16 (bit 4 clear, bits 3 to 0 free), and `RC` equal to 16. -/
theorem processRows_iff_fields :
    ∀ w : CmdWord, (w &&& 0xD0#8 = 0xC0#8 ∨ w &&& 0xDF#8 = 0xD0#8) ↔ opField w = 3 ∧ (rcField w).toNat ≤ 16 := by
  decide +kernel

/-! ### The map -/

/-- The row of LOADKEY. -/
theorem decode_eq_loadkey_iff_row (w : CmdWord) : decode w = .instr .loadkey ↔ w &&& 0xFF#8 = 0x00#8 := by
  rw [fullMaskRow_iff]
  exact decode_eq_loadkey_iff w

/-- The row of ENCRYPT. -/
theorem decode_eq_encrypt_iff_row (w : CmdWord) : decode w = .instr .encrypt ↔ w &&& 0xFF#8 = 0x40#8 := by
  rw [fullMaskRow_iff, eq_iff_fields]
  exact decode_eq_encrypt_iff_fields w

/-- The row of DECRYPT. -/
theorem decode_eq_decrypt_iff_row (w : CmdWord) : decode w = .instr .decrypt ↔ w &&& 0xFF#8 = 0x80#8 := by
  rw [fullMaskRow_iff, eq_iff_fields]
  exact decode_eq_decrypt_iff_fields w

/-- The two rows of PROCESS, with its fields. -/
theorem decode_eq_process_iff_row (w : CmdWord) (enc : Bool) (rc : BitVec 5) :
    decode w = .instr (.process enc rc) ↔
      (w &&& 0xD0#8 = 0xC0#8 ∨ w &&& 0xDF#8 = 0xD0#8) ∧ enc = w.getLsbD 5 ∧ rc = w.extractLsb' 0 5 := by
  rw [processRows_iff_fields]
  exact decode_eq_process_iff_fields w enc rc

/-- A word is rejected exactly when it meets no row. -/
theorem toOption_decode_eq_none_iff_no_row (w : CmdWord) :
    (decode w).toOption = none ↔
      ¬(w &&& 0xFF#8 = 0x00#8 ∨ w &&& 0xFF#8 = 0x40#8 ∨ w &&& 0xFF#8 = 0x80#8 ∨
        w &&& 0xD0#8 = 0xC0#8 ∨ w &&& 0xDF#8 = 0xD0#8) := by
  rw [toOption_eq_none_iff, ← decode_eq_loadkey_iff_row, ← decode_eq_encrypt_iff_row, ← decode_eq_decrypt_iff_row]
  constructor
  · rintro h (hd | hd | hd | hrow)
    · exact h _ hd
    · exact h _ hd
    · exact h _ hd
    · exact h _ ((decode_eq_process_iff_row w _ _).2 ⟨hrow, rfl, rfl⟩)
  · intro h i hd
    cases i with
    | loadkey => exact h (.inl hd)
    | encrypt => exact h (.inr (.inl hd))
    | decrypt => exact h (.inr (.inr (.inl hd)))
    | process enc rc => exact h (.inr (.inr (.inr ((decode_eq_process_iff_row w enc rc).1 hd).1)))

/-- The legal words: one each of LOADKEY, ENCRYPT and DECRYPT, and 17 round counts in two directions. -/
theorem legalWords_count :
    ((List.range 256).filter fun w => (decode (BitVec.ofNat 8 w)).toOption.isSome).length = 37 := by
  decide +kernel

/-- The reserved words are those of the 256 that are not legal. -/
theorem reservedWords_count :
    ((List.range 256).filter fun w => (decode (BitVec.ofNat 8 w)).toOption.isNone).length = 219 := by
  have h := List.length_eq_length_filter_add (l := List.range 256)
    fun w => (decode (BitVec.ofNat 8 w)).toOption.isSome
  simp only [legalWords_count, List.length_range, Option.not_isSome] at h
  omega

/-- Settles O2: the decoder and the rows of the map, each read as a condition on the fields, and the two counts. -/
theorem decodeIsTheOpcodeMap : Obligations.DecodeIsTheOpcodeMap := by
  unfold Obligations.DecodeIsTheOpcodeMap
  exact ⟨fun w => ⟨decode_eq_loadkey_iff_row w, decode_eq_encrypt_iff_row w, decode_eq_decrypt_iff_row w,
    decode_eq_process_iff_row w, toOption_decode_eq_none_iff_no_row w⟩, legalWords_count, reservedWords_count⟩

end Sys2Proof.Machine
end

section
/-! PROOFS. The bit permutation primitive (41_permute.md): `permute` read position by position, a value as the sum of
its bits, and tables that undo each other. -/

namespace Sys2Proof.Machine

/-! ### Positions -/

/-- Position `i + 1` is the bit counted `i` from the top (00_scope.md R8). -/
theorem atPosition_succ_eq_getMsbD {w : Nat} (v : BitVec w) {i : Nat} (hi : i < w) :
    atPosition v (i + 1) = v.getMsbD i := by
  rw [BitVec.getMsbD_eq_getLsbD, decide_eq_true hi, Bool.true_and, Nat.sub_right_comm, Nat.sub_sub, atPosition]

/-- A value is fixed by its bits at the positions 1 to its width. -/
theorem eq_of_atPosition_succ_eq {w : Nat} {u v : BitVec w}
    (h : ∀ i < w, atPosition u (i + 1) = atPosition v (i + 1)) : u = v :=
  BitVec.eq_of_getMsbD_eq fun i hi => by
    rw [← atPosition_succ_eq_getMsbD u hi, ← atPosition_succ_eq_getMsbD v hi, h i hi]

/-- Output position `i + 1` is input position `T[i]` (41_permute.md R100). -/
theorem atPosition_permute_succ {win wout : Nat} (T : PermTable win wout) (v : BitVec win) {i : Nat} (hi : i < wout) :
    atPosition (permute T v) (i + 1) = atPosition v (T.entries.getD i 0) := by
  have hlen : i < T.entries.length := T.length_eq.symm ▸ hi
  rw [atPosition_succ_eq_getMsbD _ hi, permute_getMsbD]
  simp [List.getD, hlen]

/-! ### The sum of R100 -/

/-- A bit as a number, in the form of R100. -/
theorem toNat_shiftRight_mod_two {w : Nat} (v : BitVec w) (k : Nat) : v.toNat >>> k % 2 = (v.getLsbD k).toNat := by
  rw [BitVec.getLsbD, Nat.toNat_testBit, Nat.shiftRight_eq_div_pow]

/-- The low `w` bits of a number, each times its weight, from the top. -/
theorem sum_bits_eq_mod_two_pow (n w : Nat) :
    ((List.range w).map fun i => n >>> (w - 1 - i) % 2 * 2 ^ (w - 1 - i)).sum = n % 2 ^ w := by
  induction w with
  | zero => simp [Nat.mod_one]
  | succ w ih =>
    have hidx : ∀ i, w + 1 - 1 - (i + 1) = w - 1 - i := by omega
    rw [List.range_succ_eq_map, List.map_cons, List.sum_cons, List.map_map]
    simp only [Function.comp_def, Nat.succ_eq_add_one, hidx, ih]
    rw [Nat.add_sub_cancel, Nat.sub_zero, Nat.mod_pow_succ, Nat.shiftRight_eq_div_pow, Nat.mul_comm, Nat.add_comm]

/-- A value is the sum of its bits, each times its weight. -/
theorem toNat_eq_sum_bits {w : Nat} (v : BitVec w) :
    v.toNat = ((List.range w).map fun i => (v.getLsbD (w - 1 - i)).toNat * 2 ^ (w - 1 - i)).sum := by
  simp only [← toNat_shiftRight_mod_two]
  rw [sum_bits_eq_mod_two_pow, Nat.mod_eq_of_lt v.isLt]

/-- The loop of R100: output index `W_out - 1 - i` is input index `W_in - T[i]`. -/
theorem getLsbD_permute {win wout : Nat} (T : PermTable win wout) (v : BitVec win) {i : Nat} (hi : i < wout) :
    (permute T v).getLsbD (wout - 1 - i) = v.getLsbD (win - T.entries.getD i 0) := by
  rw [Nat.sub_sub, Nat.add_comm]
  exact atPosition_permute_succ T v hi

/-- Settles O7: the loop is `getLsbD_permute`, and the sum is that of the output's bits, each
replaced by the input bit it copies. -/
theorem permuteCopiesTableBits : Obligations.PermuteCopiesTableBits := by
  unfold Obligations.PermuteCopiesTableBits
  intro win wout T v
  refine ⟨fun i hi => getLsbD_permute T v hi, ?_⟩
  rw [toNat_eq_sum_bits (permute T v)]
  refine congrArg List.sum (List.map_congr_left fun i hi => ?_)
  rw [getLsbD_permute T v (List.mem_range.1 hi), toNat_shiftRight_mod_two]

/-! ### Tables that undo each other -/

/-- The entry that feeds an output position is an input position (R80). -/
theorem PermTable.getD_inRange {win wout : Nat} (T : PermTable win wout) {i : Nat} (hi : i < wout) :
    1 ≤ T.entries.getD i 0 ∧ T.entries.getD i 0 ≤ win := by
  have hlen : i < T.entries.length := T.length_eq.symm ▸ hi
  rw [List.getD_eq_getElem _ _ hlen]
  exact T.inRange _ (List.getElem_mem hlen)

/-- `U` undoes `T`: what feeds position `i + 1` of `U`'s output is a position that `T` fills from position `i + 1`. -/
def Undoes {win wout : Nat} (U : PermTable wout win) (T : PermTable win wout) : Prop :=
  ∀ i < win, T.entries.getD (U.entries.getD i 0 - 1) 0 = i + 1

/-- Each position of the result of both tables is the same position of the value. -/
theorem Undoes.permute_permute {win wout : Nat} {U : PermTable wout win} {T : PermTable win wout} (h : Undoes U T)
    (x : BitVec win) : permute U (permute T x) = x := by
  refine eq_of_atPosition_succ_eq fun i hi => ?_
  obtain ⟨hpos, hle⟩ := U.getD_inRange hi
  calc atPosition (permute U (permute T x)) (i + 1)
    _ = atPosition (permute T x) (U.entries.getD i 0) := atPosition_permute_succ U _ hi
    _ = atPosition (permute T x) (U.entries.getD i 0 - 1 + 1) := by rw [Nat.sub_add_cancel hpos]
    _ = atPosition x (T.entries.getD (U.entries.getD i 0 - 1) 0) :=
      atPosition_permute_succ T x (Nat.sub_one_lt_of_le hpos hle)
    _ = atPosition x (i + 1) := by rw [h i hi]

/-- R97 (b), for IP and then FP. -/
theorem undoes_tableFP_tableIP : Undoes tableFP tableIP := by
  unfold Undoes
  decide

/-- R97 (b), for FP and then IP. -/
theorem undoes_tableIP_tableFP : Undoes tableIP tableFP := by
  unfold Undoes
  decide

/-- Settles O9: each of the two tables undoes the other. -/
theorem initialAndFinalAreInverse : Obligations.InitialAndFinalAreInverse := by
  unfold Obligations.InitialAndFinalAreInverse
  exact fun x => ⟨undoes_tableFP_tableIP.permute_permute x, undoes_tableIP_tableFP.permute_permute x⟩

end Sys2Proof.Machine
end

section
/-! PROOFS. The key schedule (42_key_schedule.md): where `rotl28` moves each bit, and the key bits that PC-1 reads. -/

namespace Sys2Proof.Machine

/-! ### Rotation -/

/-- The value of `rotl28` (R110): the bits that leave at the top come back at the bottom. -/
theorem toNat_rotl28 (v : KeyHalf) (n : Nat) :
    (rotl28 v n).toNat = (v.toNat <<< n) % 2 ^ 28 ||| v.toNat >>> (28 - n) := by
  rw [rotl28, BitVec.toNat_or, BitVec.toNat_shiftLeft, BitVec.toNat_ushiftRight]

/-- A bit that is not shifted in at the bottom comes from `n` places below. -/
theorem getLsbD_rotl28_of_le (v : KeyHalf) {n i : Nat} (hni : n ≤ i) (hi : i < 28) :
    (rotl28 v n).getLsbD i = v.getLsbD (i - n) := by
  have hout : v.getLsbD (28 - n + i) = false := BitVec.getLsbD_of_ge _ _ (by omega)
  rw [rotl28, BitVec.getLsbD_or, BitVec.getLsbD_shiftLeft, BitVec.getLsbD_ushiftRight, hout, decide_eq_true hi,
    decide_eq_false (Nat.not_lt.2 hni), Bool.or_false, Bool.not_false, Bool.true_and, Bool.true_and]

/-- The low `n` bits are the `n` bits that left at the top. -/
theorem getLsbD_rotl28_of_lt (v : KeyHalf) {n i : Nat} (hin : i < n) :
    (rotl28 v n).getLsbD i = v.getLsbD (28 - n + i) := by
  simp [rotl28, hin]

/-- The bit at position `q` moves to position `q - n`, wrapped into 1 to 28 (R110). -/
theorem atPosition_rotl28 (v : KeyHalf) {n q : Nat} (hn : n ≤ 28) (hpos : 1 ≤ q) (hq : q ≤ 28) :
    atPosition (rotl28 v n) (if n < q then q - n else q + 28 - n) = atPosition v q := by
  unfold atPosition
  split
  case isTrue hnq =>
    rw [getLsbD_rotl28_of_le v (by omega) (by omega)]
    congr 1
    omega
  case isFalse hnq =>
    rw [getLsbD_rotl28_of_lt v (by omega)]
    congr 1
    omega

/-- Settles O10: both parts hold for every amount up to 28, so for 1 and 2. -/
theorem rotationStaysWithin28Bits : Obligations.RotationStaysWithin28Bits := by
  unfold Obligations.RotationStaysWithin28Bits
  intro v n hn
  have hle : n ≤ 28 := by omega
  exact ⟨toNat_rotl28 v n, fun q hpos hq => atPosition_rotl28 v hle hpos hq⟩

/-! ### The bits that PC-1 reads -/

/-- `permute` reads only the positions that its table names (R100). -/
theorem permute_congr {win wout : Nat} {T : PermTable win wout} {u v : BitVec win}
    (h : ∀ q ∈ T.entries, atPosition u q = atPosition v q) : permute T u = permute T v :=
  BitVec.eq_of_getMsbD_eq fun i _ => by rw [permute_getMsbD, permute_getMsbD, List.map_congr_left h]

/-- The schedule depends on the MasterKey through PC-1 alone (R111). -/
theorem keySchedule_eq_of_permute_tablePC1_eq {mk mk' : MasterKey}
    (h : permute tablePC1 mk = permute tablePC1 mk') : keySchedule mk = keySchedule mk' := by
  have hC : initialC mk = initialC mk' := by rw [initialC, initialC, h]
  have hD : initialD mk = initialD mk' := by rw [initialD, initialD, h]
  rw [← Vector.toList_inj, keySchedule_toList, keySchedule_toList, hC, hD]

/-- The mask of R113 has every bit that PC-1 reads: PC-1 reads no parity position. -/
theorem atPosition_mask_of_mem_tablePC1 :
    ∀ q ∈ tablePC1.entries, atPosition 0xFEFEFEFEFEFEFEFE#64 q = true := by decide

/-- A value whose set bits are all parity bits is clear where PC-1 reads. -/
theorem atPosition_eq_false_of_and_mask_eq_zero {m : MasterKey} (hm : m &&& 0xFEFEFEFEFEFEFEFE#64 = 0)
    {q : Nat} (hq : q ∈ tablePC1.entries) : atPosition m q = false := by
  have hand : atPosition (m &&& 0xFEFEFEFEFEFEFEFE#64) q = false := by rw [hm]; exact BitVec.getLsbD_zero
  have hmask : atPosition 0xFEFEFEFEFEFEFEFE#64 q = true := atPosition_mask_of_mem_tablePC1 q hq
  unfold atPosition at hand hmask ⊢
  rwa [BitVec.getLsbD_and, hmask, Bool.and_true] at hand

/-- Settles O13: `m` changes no bit that PC-1 reads, so PC-1 answers the same and the schedule with it. -/
theorem parityBitsAreIgnored : Obligations.ParityBitsAreIgnored := by
  unfold Obligations.ParityBitsAreIgnored
  intro mk m hm
  refine keySchedule_eq_of_permute_tablePC1_eq (permute_congr fun q hq => ?_)
  have hclear : m.getLsbD (64 - q) = false := atPosition_eq_false_of_and_mask_eq_zero hm hq
  rw [atPosition, BitVec.getLsbD_xor, hclear, Bool.xor_false, atPosition]

end Sys2Proof.Machine
end

section
/-! PROOFS. The round function (43_round_function.md): the expansion read group by group. -/

namespace Sys2Proof.Machine

/-! ### The expansion -/

/-- Table `E` (40_table_store.md R83) follows the pattern of R120: entry `j` of row `g` is `4g + j`, with 0 read as 32 and
33 read as 1. -/
theorem getD_tableE_entries : ∀ g < 8, ∀ j < 6,
    tableE.entries.getD (6 * g + j) 0 =
      if 4 * g + j = 0 then 32 else if 4 * g + j = 33 then 1 else 4 * g + j := by decide

/-- Settles O16: bit `j` of group `g` is output position `6g + j + 1`, so the input position is entry `6g + j` of `E`. -/
theorem expansionTakesNeighbouringBits : Obligations.ExpansionTakesNeighbouringBits := by
  unfold Obligations.ExpansionTakesNeighbouringBits
  intro r g j hg hj
  have hout : 6 * g + j < 48 := by omega
  rw [atPosition_permute_succ tableE r hout, getD_tableE_entries g hg j hj]

end Sys2Proof.Machine
end

section
/-! PROOFS. Complements through the cipher: `permute`, `rotl28` and the key schedule commute with the complement
(41_permute.md R103 (c), 42_key_schedule.md R115); `f` is blind to it on both operands (43_round_function.md R125). -/

namespace Sys2Proof.Machine

/-! ### Slices and `permute` -/

/-- A slice of the complement is the complement of the slice, also where the slice reaches the top. -/
theorem extractLsb'_not_of_le {w start len : Nat} (x : BitVec w) (h : start + len ≤ w) :
    (~~~x).extractLsb' start len = ~~~x.extractLsb' start len :=
  BitVec.eq_of_getLsbD_eq fun i hi => by
    have hin : start + i < w := by omega
    simp [hi, hin]

/-- Every position is complemented. -/
theorem atPosition_not {w : Nat} (v : BitVec w) {q : Nat} (hpos : 1 ≤ q) (hq : q ≤ w) :
    atPosition (~~~v) q = !atPosition v q := by
  have hin : w - q < w := by omega
  rw [atPosition, BitVec.getLsbD_not, decide_eq_true hin, Bool.true_and, atPosition]

/-- `permute` commutes with the complement (R103 (c)): every entry names an input position. -/
theorem permute_not {win wout : Nat} (T : PermTable win wout) (v : BitVec win) :
    permute T (~~~v) = ~~~permute T v := by
  refine eq_of_atPosition_succ_eq fun i hi => ?_
  obtain ⟨hpos, hle⟩ := T.getD_inRange hi
  rw [atPosition_permute_succ T _ hi, atPosition_not v hpos hle,
    atPosition_not _ (Nat.le_add_left 1 i) hi, atPosition_permute_succ T v hi]

/-! ### The key schedule -/

/-- Rotation by at most the width commutes with the complement: each bit is one bit of the operand. -/
theorem rotl28_not (v : KeyHalf) {n : Nat} (hn : n ≤ 28) : rotl28 (~~~v) n = ~~~rotl28 v n := by
  refine BitVec.eq_of_getLsbD_eq fun i hi => ?_
  rw [BitVec.getLsbD_not, decide_eq_true hi, Bool.true_and]
  rcases Nat.lt_or_ge i n with hin | hni
  · have hsrc : 28 - n + i < 28 := by omega
    rw [getLsbD_rotl28_of_lt _ hin, getLsbD_rotl28_of_lt _ hin, BitVec.getLsbD_not, decide_eq_true hsrc,
      Bool.true_and]
  · have hsrc : i - n < 28 := by omega
    rw [getLsbD_rotl28_of_le _ hni hi, getLsbD_rotl28_of_le _ hni hi, BitVec.getLsbD_not, decide_eq_true hsrc,
      Bool.true_and]

/-- The loop of R111 on complemented halves gives complemented RoundKeys. -/
theorem scheduleRounds_not {ns : List Nat} (hns : ∀ n ∈ ns, n ≤ 28) (c d : KeyHalf) :
    scheduleRounds ns (~~~c) (~~~d) = (scheduleRounds ns c d).map (~~~·) := by
  induction ns generalizing c d with
  | nil => rfl
  | cons n ns ih =>
    obtain ⟨hn, hrest⟩ := List.forall_mem_cons.1 hns
    rw [scheduleRounds, rotl28_not c hn, rotl28_not d hn, ih hrest, ← BitVec.not_append, permute_not]
    rfl

/-- The half `C` of the complemented key. -/
theorem initialC_not (mk : MasterKey) : initialC (~~~mk) = ~~~initialC mk := by
  rw [initialC, permute_not, extractLsb'_not_of_le _ (by decide), initialC]

/-- The half `D` of the complemented key. -/
theorem initialD_not (mk : MasterKey) : initialD (~~~mk) = ~~~initialD mk := by
  rw [initialD, permute_not, extractLsb'_not_of_le _ (by decide), initialD]

/-- Every RoundKey of the complemented key is complemented (R115). -/
theorem keySchedule_not_toList (mk : MasterKey) :
    (keySchedule (~~~mk)).toList = (keySchedule mk).toList.map (~~~·) := by
  have hshifts : ∀ n ∈ shifts, n ≤ 28 := by decide
  rw [keySchedule_toList, keySchedule_toList, initialC_not, initialD_not, scheduleRounds_not hshifts]

/-! ### The round function -/

/-- `f` sees its operands only through `E(r) ^ k`, where two complements cancel (R125). -/
theorem roundF_not_not (r : Half) (k : RoundKey) : roundF (~~~r) (~~~k) = roundF r k := by
  have hmix : permute tableE (~~~r) ^^^ ~~~k = permute tableE r ^^^ k := by
    rw [permute_not, ← BitVec.not_xor_left, ← BitVec.not_xor_right, BitVec.not_not]
  rw [roundF, hmix, roundF]

end Sys2Proof.Machine
end

section
/-! PROOFS. The block transform (44_block_transform.md): the Feistel loop read exchange by exchange (R135), and the
complementation property (R141). -/

namespace Sys2Proof.Machine

/-! ### The loop of R135 -/

/-- The halves `left` and `right` of R135 after the first `i` exchanges. -/
def halvesAfter (block : Block) (keys : List RoundKey) (i : Nat) : Half × Half :=
  feistel (keys.take i) (initialLeft block) (initialRight block)

/-- Before the first exchange: the halves of IP of the block. -/
theorem halvesAfter_zero (block : Block) (keys : List RoundKey) :
    halvesAfter block keys 0 = (initialLeft block, initialRight block) := rfl

/-- One exchange: `newRight = f(right, key) ^ left`, then `left = right`, `right = newRight`. -/
theorem halvesAfter_succ (block : Block) {keys : List RoundKey} {i : Nat} (h : i < keys.length) :
    halvesAfter block keys (i + 1) =
      ((halvesAfter block keys i).2,
        roundF (halvesAfter block keys i).2 keys[i] ^^^ (halvesAfter block keys i).1) := by
  rw [halvesAfter, List.take_succ_eq_append_getElem h, feistel_append]
  rfl

/-- The closing swap and FP act on the halves after the last exchange. -/
theorem transform_eq_finish_halvesAfter (block : Block) (keys : List RoundKey) :
    transform block keys = finish (halvesAfter block keys keys.length) := by
  rw [halvesAfter, List.take_length, transform]

/-- The worked example of R135 (vector V1). -/
theorem transform_keySchedule_example :
    transform 0x0123456789ABCDEF#64 (keySchedule 0x133457799BBCDFF1#64).toList = 0x85E813540F0AB405#64 := by
  decide +kernel

/-- Settles O21: the halves after each exchange are the witnesses. -/
theorem transformRunsTheFeistelRounds : Obligations.TransformRunsTheFeistelRounds := by
  unfold Obligations.TransformRunsTheFeistelRounds
  refine ⟨fun block keys => ?_, transform_keySchedule_example⟩
  refine ⟨fun i => (halvesAfter block keys i).1, fun i => (halvesAfter block keys i).2, ?_, ?_, fun i h => ?_, ?_⟩
  · exact congrArg Prod.fst (halvesAfter_zero block keys)
  · exact congrArg Prod.snd (halvesAfter_zero block keys)
  · exact Prod.mk.inj (halvesAfter_succ block h)
  · exact transform_eq_finish_halvesAfter block keys

/-! ### Complementation -/

/-- `L_0` of the complemented block. -/
theorem initialLeft_not (block : Block) : initialLeft (~~~block) = ~~~initialLeft block := by
  rw [initialLeft, permute_not, extractLsb'_not_of_le _ (by decide), initialLeft]

/-- `R_0` of the complemented block. -/
theorem initialRight_not (block : Block) : initialRight (~~~block) = ~~~initialRight block := by
  rw [initialRight, permute_not, extractLsb'_not_of_le _ (by decide), initialRight]

/-- Both halves stay complemented through the loop: no value of `f` changes, and `f(r, k) ^ ~l = ~(f(r, k) ^ l)`. -/
theorem feistel_not (ks : List RoundKey) (l r : Half) :
    feistel (ks.map (~~~·)) (~~~l) (~~~r) = (feistel ks l r).map (~~~·) (~~~·) := by
  induction ks generalizing l r with
  | nil => rfl
  | cons k ks ih => rw [List.map_cons, feistel, roundF_not_not, ← BitVec.not_xor_right, ih, feistel]

/-- The closing swap and FP commute with the complement. -/
theorem finish_not (halves : Half × Half) : finish (halves.map (~~~·) (~~~·)) = ~~~finish halves := by
  rw [finish, Prod.map_fst, Prod.map_snd, ← BitVec.not_append, permute_not, finish]

/-- R141 for a key sequence of any length: complementing the block and every RoundKey complements the result. -/
theorem transform_not (block : Block) (keys : List RoundKey) :
    transform (~~~block) (keys.map (~~~·)) = ~~~transform block keys := by
  rw [transform, initialLeft_not, initialRight_not, feistel_not, finish_not, transform]

/-- The example of R141: the complement of the worked example of R135. -/
theorem transform_complemented_example :
    transform 0xFEDCBA9876543210#64 (keySchedule 0xECCBA8866443200E#64).toList = 0x7A17ECABF0F54BFA#64 := by
  calc transform (~~~0x0123456789ABCDEF#64) (keySchedule (~~~0x133457799BBCDFF1#64)).toList
    _ = ~~~transform 0x0123456789ABCDEF#64 (keySchedule 0x133457799BBCDFF1#64).toList := by
      rw [keySchedule_not_toList, transform_not]
    _ = ~~~0x85E813540F0AB405#64 := by rw [transform_keySchedule_example]

/-- Settles O24: the complemented key has the complemented schedule, in either order and cut anywhere, so
`transform_not` applies. -/
theorem complementationProperty : Obligations.ComplementationProperty := by
  unfold Obligations.ComplementationProperty
  refine ⟨fun block mk n => ⟨?forward, ?reverse⟩, transform_complemented_example⟩
  case forward => rw [keySchedule_not_toList, ← List.map_take, transform_not]
  case reverse => rw [keySchedule_not_toList, ← List.map_reverse, ← List.map_take, transform_not]

end Sys2Proof.Machine
end

section
/-! PROOFS. Reversed keys undo the block transform (44_block_transform.md R138): the Feistel loop run backward returns
to the halves it began with, and the closing swap with FP undoes IP with the split. -/

namespace Sys2Proof.Machine

/-- The left half that the next transform reads from a result is the right half of the pre-output. -/
@[simp] theorem initialLeft_finish (halves : Half × Half) : initialLeft (finish halves) = halves.2 := by
  rw [initialLeft, finish, undoes_tableIP_tableFP.permute_permute, BitVec.extractLsb'_append_eq_left]

/-- The right half that the next transform reads from a result is the left half of the pre-output. -/
@[simp] theorem initialRight_finish (halves : Half × Half) : initialRight (finish halves) = halves.1 := by
  rw [initialRight, finish, undoes_tableIP_tableFP.permute_permute, BitVec.extractLsb'_append_eq_right]

/-- The closing swap and FP rebuild a block from its own halves, given in swapped order. -/
theorem finish_initialRight_initialLeft (block : Block) :
    finish (initialRight block, initialLeft block) = block := by
  have hsplit : initialLeft block ++ initialRight block = permute tableIP block :=
    BitVec.extractLsb'_append_extractLsb'
  rw [finish, hsplit, undoes_tableFP_tableIP.permute_permute]

/-- The loop under the reversed keys, begun with the swapped last halves, ends with the swapped first halves: the
exchange of the first key comes last and cancels its own `f`. -/
theorem feistel_reverse (ks : List RoundKey) (l r : Half) :
    feistel ks.reverse (feistel ks l r).2 (feistel ks l r).1 = (r, l) := by
  induction ks generalizing l r with
  | nil => rfl
  | cons k ks ih =>
    have hback : feistel ks.reverse (feistel (k :: ks) l r).2 (feistel (k :: ks) l r).1 = (roundF r k ^^^ l, r) :=
      ih r (roundF r k ^^^ l)
    rw [List.reverse_cons, feistel_append, hback, feistel, feistel, xor_cancel_left]

/-- R138 in its general form, for a key sequence of any length. -/
theorem transform_transform_reverse (block : Block) (keys : List RoundKey) :
    transform (transform block keys) keys.reverse = block := by
  rw [transform, transform, initialLeft_finish, initialRight_finish, feistel_reverse, finish_initialRight_initialLeft]

/-- R138 the other way: the keys undo the reversed keys. -/
theorem transform_reverse_transform (block : Block) (keys : List RoundKey) :
    transform (transform block keys.reverse) keys = block := by
  simpa only [List.reverse_reverse] using transform_transform_reverse block keys.reverse

end Sys2Proof.Machine
end

section
/-! PROOFS. The commands and the step (45_engine_commands.md R150 to R154): each command's next state is read off its
law in Laws/Step.lean, the cipher facts off the layers above. -/

namespace Sys2Proof.Machine

/-! ### LOADKEY -/

/-- The registers after a LOADKEY hold the schedule of `KEYIN`, whatever they held before. -/
theorem engine_of_exec_loadkey {s t : State} (h : exec .loadkey s = .next t) :
    t.engine = .ready (keySchedule s.ports.keyin) := by
  cases (exec_loadkey s).symm.trans h
  rfl

/-- The printed registers of the example of R150 (vector V3). -/
theorem keySchedule_example :
    (keySchedule 0x133457799BBCDFF1#64)[0] = 0x1B02EFFC7072#48 ∧
    (keySchedule 0x133457799BBCDFF1#64)[15] = 0xCB3D8B0E17F5#48 := by
  decide +kernel

/-- Settles O34: the next state is that of `exec_loadkey`, and parity bits on `KEYIN` do not reach the schedule. -/
theorem loadkeyBindsTheSchedule : Obligations.LoadkeyBindsTheSchedule := by
  unfold Obligations.LoadkeyBindsTheSchedule
  refine ⟨fun s => ⟨_, exec_loadkey s, ?registers, rfl, rfl, rfl, rfl, rfl⟩, fun mk m s t hkey hm hs h => ?parity,
    keySchedule_example⟩
  case registers => exact roundKey_of_ready (engine_of_exec_loadkey (exec_loadkey s))
  case parity =>
    calc t.engine
      _ = .ready (keySchedule (mk ^^^ m)) := by rw [engine_of_exec_loadkey h, hkey]
      _ = .ready (keySchedule mk) := by rw [parityBitsAreIgnored mk m hm]
      _ = s.engine := hs.symm

/-! ### ENCRYPT and DECRYPT -/

/-- Settles O35: the laws of ENCRYPT in the states Ready and Uninitialized. -/
theorem encryptUsesKeysForward : Obligations.EncryptUsesKeysForward := by
  unfold Obligations.EncryptUsesKeysForward
  exact ⟨fun s k hk => exec_encrypt_ready (engine_eq_ready hk),
    fun s h => exec_encrypt_uninit ((ready_eq_false_iff s).1 h), transform_keySchedule_example⟩

/-- The example of R152: DECRYPT of what the example of R151 delivers. -/
theorem transform_keySchedule_reverse_example :
    transform 0x85E813540F0AB405#64 (keySchedule 0x133457799BBCDFF1#64).toList.reverse = 0x0123456789ABCDEF#64 := by
  rw [← transform_keySchedule_example, transform_transform_reverse]

/-- Settles O36: the laws of DECRYPT in the states Ready and Uninitialized, with the round trips of R138. -/
theorem decryptUsesKeysBackward : Obligations.DecryptUsesKeysBackward := by
  unfold Obligations.DecryptUsesKeysBackward
  exact ⟨fun s k hk => exec_decrypt_ready (engine_eq_ready hk),
    fun s h => exec_decrypt_uninit ((ready_eq_false_iff s).1 h),
    fun k b => ⟨transform_transform_reverse b k.toList, transform_reverse_transform b k.toList⟩,
    transform_keySchedule_reverse_example⟩

/-! ### PROCESS -/

/-- PROCESS with `RC = 0` (R153 (b)): no key is taken, so neither `ENC` nor `KEYIN` is read. -/
theorem exec_process_zero (enc : Bool) (s : State) :
    exec (.process enc 0#5) s = .next (deliver .ok (some (transform s.block [])) s) :=
  exec_process_legal enc s (Nat.zero_le 16)

/-- Taking sixteen keys of a schedule takes all, in either order (R153 (a)). -/
theorem take_sixteen_keySchedule (mk : MasterKey) :
    (keySchedule mk).toList.take 16 = (keySchedule mk).toList ∧
    (keySchedule mk).toList.reverse.take 16 = (keySchedule mk).toList.reverse := by
  have hlen : (keySchedule mk).toList.length ≤ 16 := Vector.length_toList.le
  exact ⟨List.take_of_length_le hlen, List.take_of_length_le (List.length_reverse.trans_le hlen)⟩

/-- With one round the reverse order does not undo the forward order: the two take different RoundKeys (R153 (c)). -/
theorem process_reverse_not_inverse_example :
    transform 0x4472457288EEDDEA#64 ((keySchedule 0x133457799BBCDFF1#64).toList.reverse.take 1) ≠
      0x0123456789ABCDEF#64 := by
  decide +kernel

/-- The printed results of R153 for one round and two rounds forward, one round backward, and no round. -/
theorem process_partial_examples :
    transform 0x0123456789ABCDEF#64 ((keySchedule 0x133457799BBCDFF1#64).toList.take 1) = 0x4472457288EEDDEA#64 ∧
    transform 0x0123456789ABCDEF#64 ((keySchedule 0x133457799BBCDFF1#64).toList.take 2) = 0x9DA4CEE1048CEEC0#64 ∧
    transform 0x0123456789ABCDEF#64 ((keySchedule 0x133457799BBCDFF1#64).toList.reverse.take 1) =
      0x45374462CCAA98AF#64 ∧
    transform 0x0123456789ABCDEF#64 [] = 0x02138A9B4657CEDF#64 := by
  decide +kernel

/-- The printed result of R153 for sixteen rounds forward is that of ENCRYPT. -/
theorem process_full_example :
    transform 0x0123456789ABCDEF#64 ((keySchedule 0x133457799BBCDFF1#64).toList.take 16) = 0x85E813540F0AB405#64 := by
  rw [(take_sixteen_keySchedule _).1, transform_keySchedule_example]

/-- Settles O37: the law of PROCESS for a legal round count, its form for `RC = 0`, and the examples. -/
theorem processTakesTheFirstKeys : Obligations.ProcessTakesTheFirstKeys := by
  unfold Obligations.ProcessTakesTheFirstKeys
  obtain ⟨hforward1, hforward2, hreverse1, hnone⟩ := process_partial_examples
  exact ⟨fun s enc rc hrc => exec_process_legal enc s hrc,
    fun s enc enc' mk => ⟨_, _, _, exec_process_zero enc s, exec_process_zero enc' _, rfl, rfl⟩,
    take_sixteen_keySchedule, process_reverse_not_inverse_example, hforward1, hforward2, process_full_example,
    hreverse1, hnone⟩

/-! ### The step -/

/-- Every command ends in a next state, in every state (R154). -/
theorem exists_exec_next (i : Instr) (s : State) : ∃ t, exec i s = .next t := by
  rcases exec_cases i s with ⟨-, he⟩ | ⟨d, -, he⟩ | ⟨f, -, he⟩
  all_goals exact ⟨_, he⟩

/-- Every step ends in a next state (R154): a command's step ends because the command does. -/
theorem exists_step_next (s : State) : ∃ t, step s = .next t := by
  rcases step_cases s with ⟨-, hs⟩ | ⟨rest, -, hs⟩ | ⟨rest, -, hs⟩ | ⟨p, rest, i, -, -, hs⟩ | ⟨p, rest, r, -, -, hs⟩
  · exact ⟨_, hs⟩
  · exact ⟨_, hs⟩
  · exact ⟨_, hs⟩
  · exact hs ▸ exists_exec_next i _
  · exact ⟨_, hs⟩

/-- Settles O48: the two laws of a transaction's step, and `exists_step_next`. -/
theorem stepRunsTheDecodedCommand : Obligations.StepRunsTheDecodedCommand := by
  unfold Obligations.StepRunsTheDecodedCommand
  exact ⟨fun s p rest hp => ⟨fun i hd => step_instr hp hd, fun r hd => step_reserved hp hd⟩, exists_step_next⟩

end Sys2Proof.Machine
end

section
/-! PROOFS. Faults (60_exceptions.md R170 to R174): the two causes of a fault, the three ways a transaction can end, one
for each response code, and the statements on faults read off them. -/

namespace Sys2Proof.Machine

/-! ### The causes of a fault, by the command word -/

/-- The only word of ENCRYPT is 0x40 (30_encoding.md R61). -/
theorem decode_eq_encrypt_iff (w : CmdWord) : decode w = .instr .encrypt ↔ w = 0x40#8 :=
  (decode_eq_encrypt_iff_row w).trans (fullMaskRow_iff w _)

/-- The only word of DECRYPT is 0x80 (R61). -/
theorem decode_eq_decrypt_iff (w : CmdWord) : decode w = .instr .decrypt ↔ w = 0x80#8 :=
  (decode_eq_decrypt_iff_row w).trans (fullMaskRow_iff w _)

/-- The reserved words are those that are no legal word of R60 (R65). -/
theorem toOption_decode_eq_none_iff_not_legal (w : CmdWord) :
    (decode w).toOption = none ↔
      ¬(w = 0x00#8 ∨ w = 0x40#8 ∨ w = 0x80#8 ∨ (opField w = 3 ∧ (rcField w).toNat ≤ 16)) := by
  simp only [toOption_decode_eq_none_iff_no_row, fullMaskRow_iff, processRows_iff_fields]

/-- The decoder yields only instructions that have a legal word: a decoded PROCESS has a round count up to 16. -/
theorem wellFormed_of_decode {w : CmdWord} {i : Instr} (hd : decode w = .instr i) : i.wellFormed = true := by
  cases i with
  | loadkey => rfl
  | encrypt => rfl
  | decrypt => rfl
  | process enc rc =>
    obtain ⟨⟨-, hle⟩, -, rfl⟩ := (decode_eq_process_iff_fields w enc rc).1 hd
    exact decide_eq_true hle

/-- The cause of NOT_READY (60_exceptions.md R171): `READY = 0` and the word is that of ENCRYPT or DECRYPT. -/
def LacksKeys (s : State) (w : CmdWord) : Prop := s.ready = false ∧ (w = 0x40#8 ∨ w = 0x80#8)

/-- The two causes exclude each other: the words of ENCRYPT and DECRYPT are not reserved. -/
theorem LacksKeys.not_reserved {s : State} {w : CmdWord} (h : LacksKeys s w) : (decode w).toOption ≠ none := by
  obtain ⟨-, rfl | rfl⟩ := h
  · decide
  · decide

/-- The cause of NOT_READY, by the instruction that the word decodes to. -/
theorem lacksKeys_iff {s : State} {w : CmdWord} {i : Instr} (hd : decode w = .instr i) :
    LacksKeys s w ↔ s.ready = false ∧ (i = .encrypt ∨ i = .decrypt) := by
  simp only [LacksKeys, ← decode_eq_encrypt_iff, ← decode_eq_decrypt_iff, hd, Decoded.instr.injEq]

/-! ### How a transaction ends -/

/-- A command with a legal word raises NOT_READY where it needs keys and there are none, and answers `OK` otherwise. -/
theorem exec_resp_cases {i : Instr} (s : State) (hwf : i.wellFormed = true) :
    ((s.ready = false ∧ (i = .encrypt ∨ i = .decrypt)) ∧ exec i s = .next (raise .notReady s)) ∨
    (¬(s.ready = false ∧ (i = .encrypt ∨ i = .decrypt)) ∧
      ∃ t d, exec i s = .next t ∧ t.answers = s.answers ++ [.response .ok d]) := by
  cases i with
  | loadkey => exact .inr ⟨by simp, _, _, exec_loadkey s, rfl⟩
  | encrypt =>
    cases he : s.engine with
    | uninit => exact .inl ⟨⟨(ready_eq_false_iff s).2 he, .inl rfl⟩, exec_encrypt_uninit he⟩
    | ready k => exact .inr ⟨by simp [ready_eq_false_iff, he], _, _, exec_encrypt_ready he, rfl⟩
  | decrypt =>
    cases he : s.engine with
    | uninit => exact .inl ⟨⟨(ready_eq_false_iff s).2 he, .inr rfl⟩, exec_decrypt_uninit he⟩
    | ready k => exact .inr ⟨by simp [ready_eq_false_iff, he], _, _, exec_decrypt_ready he, rfl⟩
  | process enc rc => exact .inr ⟨by simp, _, _, exec_process_legal enc s (of_decide_eq_true hwf), rfl⟩

/-- A transaction of a word that decodes to no instruction raises ILLEGAL_CMD (R172). -/
theorem step_of_toOption_eq_none {s : State} {p : Ports} {rest : List HostMove}
    (hp : s.pending = .command p :: rest) (hn : (decode p.cmd).toOption = none) :
    step s = .next (raise .illegalCmd (present p { s with pending := rest })) := by
  cases hd : decode p.cmd with
  | instr i => exact absurd hd ((toOption_eq_none_iff _).1 hn i)
  | reserved r => exact step_reserved hp hd

/-- How a transaction can end, one case for each response code (R170): ILLEGAL_CMD on a reserved word, NOT_READY where
keys are lacking, and else `OK`. -/
theorem step_resp_cases {s t : State} {p : Ports} {rest : List HostMove} (hp : s.pending = .command p :: rest)
    (h : step s = .next t) :
    ((decode p.cmd).toOption = none ∧ t = raise .illegalCmd (present p { s with pending := rest })) ∨
    (LacksKeys s p.cmd ∧ t = raise .notReady (present p { s with pending := rest })) ∨
    ((decode p.cmd).toOption ≠ none ∧ ¬LacksKeys s p.cmd ∧ ∃ d, t.answers = s.answers ++ [.response .ok d]) := by
  cases hd : decode p.cmd with
  | reserved r => exact .inl ⟨rfl, Host.Outcome.next.inj (h.symm.trans (step_reserved hp hd))⟩
  | instr i =>
    have hexec := (step_instr hp hd).symm.trans h
    rw [lacksKeys_iff hd]
    rcases exec_resp_cases (present p { s with pending := rest }) (wellFormed_of_decode hd) with
      ⟨hlacks, he⟩ | ⟨hkeys, u, d, he, hans⟩
    · exact .inr (.inl ⟨hlacks, Host.Outcome.next.inj (hexec.symm.trans he)⟩)
    · cases he.symm.trans hexec
      exact .inr (.inr ⟨Option.some_ne_none i, hkeys, d, hans⟩)

/-! ### The statements -/

/-- Code 3 is never produced (R170). -/
theorem Resp.code_ne_three (r : Resp) : r.code ≠ 3#2 := by
  cases r with
  | ok => decide
  | notReady => decide
  | illegalCmd => decide

/-- Settles O44: each of the three ends of a transaction gives one response, and their causes exclude each other. -/
theorem everyCommandAnswersOnce : Obligations.EveryCommandAnswersOnce := by
  unfold Obligations.EveryCommandAnswersOnce
  refine ⟨rfl, rfl, rfl, fun s t p rest hp h => ?_⟩
  rcases step_resp_cases hp h with ⟨hn, rfl⟩ | ⟨hlacks, rfl⟩ | ⟨hsome, hkeys, d, hans⟩
  · exact ⟨.illegalCmd, none, rfl, Resp.code_ne_three _, iff_of_true rfl hn,
      iff_of_false nofun fun hlacks => LacksKeys.not_reserved hlacks hn⟩
  · exact ⟨.notReady, none, rfl, Resp.code_ne_three _, iff_of_false nofun hlacks.not_reserved, iff_of_true rfl hlacks⟩
  · exact ⟨.ok, d, hans, Resp.code_ne_three _, iff_of_false nofun hsome, iff_of_false nofun hkeys⟩

/-- Settles O46: a word that is no legal word decodes to no instruction. -/
theorem reservedWordsAreIllegal : Obligations.ReservedWordsAreIllegal := by
  unfold Obligations.ReservedWordsAreIllegal
  exact fun s p rest hp hnot =>
    step_of_toOption_eq_none hp ((toOption_decode_eq_none_iff_not_legal p.cmd).2 hnot)

/-- Settles O47: an answer other than `OK` is that of a `raise`, which is precise by its definition. -/
theorem faultsArePrecise : Obligations.FaultsArePrecise := by
  unfold Obligations.FaultsArePrecise
  intro s t p rest r d hp h hans hr
  rcases step_resp_cases hp h with ⟨-, rfl⟩ | ⟨-, rfl⟩ | ⟨-, -, d', hok⟩
  · cases List.append_cancel_left hans
    rfl
  · cases List.append_cancel_left hans
    rfl
  · cases List.append_cancel_left (hok.symm.trans hans)
    exact absurd rfl hr

/-- Settles O45: the laws of ENCRYPT and DECRYPT in state Uninitialized, the answers of LOADKEY and PROCESS, and the
three ends of a transaction, of which one alone answers NOT_READY. -/
theorem notReadyIsForMissingKeys : Obligations.NotReadyIsForMissingKeys := by
  unfold Obligations.NotReadyIsForMissingKeys
  refine ⟨fun i s x hi h0 => ?withoutKeys, fun s t d h hans => ?loadkey, fun s t enc rc d h hans => ?process,
    fun s t p rest d hp h hans => ?step⟩
  case withoutKeys =>
    have he : s.engine = .uninit := (ready_eq_false_iff s).1 h0
    rcases hi with rfl | rfl
    · exact ⟨_, exec_encrypt_uninit he, rfl, rfl⟩
    · exact ⟨_, exec_decrypt_uninit he, rfl, rfl⟩
  case loadkey =>
    cases (exec_loadkey s).symm.trans h
    cases List.append_cancel_left hans
  case process =>
    by_cases hrc : rc.toNat ≤ 16
    · cases (exec_process_legal enc s hrc).symm.trans h
      cases List.append_cancel_left hans
    · cases (exec_process_illegal enc s (Nat.lt_of_not_le hrc)).symm.trans h
      cases List.append_cancel_left hans
  case step =>
    rcases step_resp_cases hp h with ⟨-, rfl⟩ | ⟨hlacks, -⟩ | ⟨-, -, d', hok⟩
    · cases List.append_cancel_left hans
    · exact hlacks
    · cases List.append_cancel_left (hok.symm.trans hans)

end Sys2Proof.Machine
end

section
/-! PROOFS. Encoding (30_encoding.md R60 to R65, R71): the word of each instruction read field by field, and the decoder
and the encoder as inverses of each other. -/

namespace Sys2Proof.Machine

/-! ### The fields of PROCESS -/

/-- The low field is `ENC` over `RC` (R60). -/
theorem lowField_eq_append (w : CmdWord) : lowField w = BitVec.ofBool (encField w) ++ rcField w := by
  have henc : w.extractLsb' 5 1 = BitVec.ofBool (encField w) :=
    BitVec.eq_of_getLsbD_eq fun i hi => by simp [encField, Nat.lt_one_iff.1 hi]
  rw [← henc, rcField, BitVec.extractLsb'_append_extractLsb'_eq_extractLsb' (Nat.zero_add 5).symm, lowField]

/-- The fields of the word of PROCESS are its operands, also for a round count above 16. -/
theorem fields_encode_process (enc : Bool) (rc : BitVec 5) :
    opField (encode (.process enc rc)) = 3 ∧ encField (encode (.process enc rc)) = enc ∧
      rcField (encode (.process enc rc)) = rc := by
  refine ⟨(Laws.Fields.process enc rc).1, ?_, BitVec.extractLsb'_append_eq_right⟩
  simp only [encField, encode, BitVec.getLsbD_append]
  simp

/-! ### Decode of encode -/

/-- A PROCESS word decodes to its instruction where the round count is legal (R61). -/
theorem decode_encode_process {enc : Bool} {rc : BitVec 5} (h : rc.toNat ≤ 16) :
    decode (encode (.process enc rc)) = .instr (.process enc rc) := by
  obtain ⟨hop, henc, hrc⟩ := fields_encode_process enc rc
  refine (decode_eq_process_iff_fields _ enc rc).2 ⟨⟨hop, ?_⟩, henc.symm, hrc.symm⟩
  rwa [hrc]

/-- A PROCESS word decodes to no instruction where the round count is above 16: the word is reserved (R65). -/
theorem toOption_decode_encode_process {enc : Bool} {rc : BitVec 5} (h : 16 < rc.toNat) :
    (decode (encode (.process enc rc))).toOption = none := by
  obtain ⟨hop, -, hrc⟩ := fields_encode_process enc rc
  rcases decode_cases (encode (.process enc rc)) with ⟨h0, -⟩ | ⟨h1, -⟩ | ⟨h2, -⟩ | ⟨-, hle, -⟩ | ⟨-, -, hd⟩
  · simp [hop] at h0
  · simp [hop] at h1
  · simp [hop] at h2
  · rw [hrc] at hle
    omega
  · rw [hd, Decoded.toOption]

/-- Settles O3: the words of LOADKEY, ENCRYPT and DECRYPT are their rows of the map, that of PROCESS has its fields. -/
theorem decodeOfEncode : Obligations.DecodeOfEncode := by
  unfold Obligations.DecodeOfEncode
  intro i hwf
  cases i with
  | loadkey => exact (decode_eq_loadkey_iff _).2 rfl
  | encrypt => exact (decode_eq_encrypt_iff _).2 rfl
  | decrypt => exact (decode_eq_decrypt_iff _).2 rfl
  | process enc rc => exact decode_encode_process (of_decide_eq_true hwf)

/-! ### Encode of decode -/

/-- A word is rebuilt from the fields that the decoder reads as a PROCESS (R60). -/
theorem encode_process_fields {w : CmdWord} (hop : opField w = 3) : encode (.process (encField w) (rcField w)) = w := by
  obtain ⟨hop', hlow'⟩ := Laws.Fields.process (encField w) (rcField w)
  exact (eq_iff_fields _ w).2 ⟨hop'.trans hop.symm, hlow'.trans (lowField_eq_append w).symm⟩

/-- Settles O4: LOADKEY, ENCRYPT and DECRYPT have one word each, and the word of a PROCESS is rebuilt from its fields. -/
theorem encodeOfDecode : Obligations.EncodeOfDecode := by
  unfold Obligations.EncodeOfDecode
  intro w i hd
  refine ⟨wellFormed_of_decode hd, ?_⟩
  cases i with
  | loadkey => exact ((decode_eq_loadkey_iff w).1 hd).symm
  | encrypt => exact ((decode_eq_encrypt_iff w).1 hd).symm
  | decrypt => exact ((decode_eq_decrypt_iff w).1 hd).symm
  | process enc rc =>
    obtain ⟨⟨hop, -⟩, rfl, rfl⟩ := (decode_eq_process_iff_fields w enc rc).1 hd
    exact encode_process_fields hop

/-! ### Written words, assembler lines, and a word placed by the host -/

/-- Settles O1: seven words are those of well-formed instructions; the five reserved ones are decoded. -/
theorem writtenWordsDecode : Obligations.WrittenWordsDecode := by
  unfold Obligations.WrittenWordsDecode
  exact ⟨decodeOfEncode .loadkey rfl, decodeOfEncode .encrypt rfl, decodeOfEncode .decrypt rfl,
    decodeOfEncode (.process false 2) rfl, decodeOfEncode (.process false 16) rfl,
    decodeOfEncode (.process true 1) rfl, decodeOfEncode (.process true 16) rfl, by decide⟩

/-- Settles O5: each command line carries the word of a well-formed instruction. -/
theorem assemblerLinesStandForCommands : Obligations.AssemblerLinesStandForCommands := by
  unfold Obligations.AssemblerLinesStandForCommands
  refine ⟨fun idle key block rc enc hrc => ?_, fun _ _ _ _ => rfl, fun _ => rfl⟩
  exact ⟨⟨_, rfl, decodeOfEncode .loadkey rfl⟩, ⟨_, rfl, decodeOfEncode .encrypt rfl⟩,
    ⟨_, rfl, decodeOfEncode .decrypt rfl⟩, ⟨_, rfl, decode_encode_process hrc⟩⟩

/-- A command word numbered as the opcode table numbers it (R66). -/
@[simp] theorem tableWord_toNat (w : CmdWord) : tableWord 8 w.toNat = w := by
  rw [tableWord, Nat.mod_eq_of_lt w.isLt, BitVec.ofNat_toNat, BitVec.setWidth_eq]

/-- Settles O50: the placed move carries the word of a well-formed instruction. -/
theorem placedWordRunsNext : Obligations.PlacedWordRunsNext := by
  unfold Obligations.PlacedWordRunsNext
  intro s i hwf
  rw [State.withFetchWord, tableWord_toNat]
  exact step_instr rfl (decodeOfEncode i hwf)

/-- Settles O40: the law of PROCESS for such a round count; its word has `OP = 3` and an `RC` above 16. -/
theorem illFormedProcessIsIllegal : Obligations.IllFormedProcessIsIllegal := by
  unfold Obligations.IllFormedProcessIsIllegal
  exact fun s enc rc hrc => ⟨exec_process_illegal enc s hrc, toOption_decode_encode_process hrc⟩

end Sys2Proof.Machine
end

section
/-! PROOFS. Invariants and reset (10_state.md R20 to R32, 60_exceptions.md R173, 70_reset_and_hazards.md R190, R193):
what one host move makes of the engine, and the invariant through one answer. -/

namespace Sys2Proof.Machine

/-! ### The invariant -/

/-- The invariant speaks of the engine, `ERR` and the answers only. -/
theorem State.Inv.congr {s t : State} (hs : s.Inv) (hengine : t.engine = s.engine) (herr : t.err = s.err)
    (hanswers : t.answers = s.answers) : t.Inv where
  keyBound k hk := hs.keyBound k (hengine ▸ hk)
  errReported ht := hanswers ▸ hs.errReported (herr ▸ ht)
  dataOk := hanswers ▸ hs.dataOk

/-- Registers without value meet the invariant once `ERR` is clear. -/
theorem State.Inv.applyReset {s : State} (hs : s.Inv) : (applyReset s).Inv where
  keyBound _ hk := nomatch hk
  errReported ht := nomatch ht
  dataOk := hs.dataOk

/-- The schedule of a MasterKey meets the invariant in the registers (R31). -/
theorem State.Inv.bindKeys {s : State} (hs : s.Inv) (mk : MasterKey) : (bindKeys (keySchedule mk) s).Inv where
  keyBound _ hk := ⟨mk, (Engine.ready.inj hk).symm⟩
  errReported := hs.errReported
  dataOk := hs.dataOk

/-- One more answer keeps the invariant if it carries data with `OK` only, and if it reports a fault or leaves `ERR`
as it was. -/
theorem State.Inv.append_answer {s t : State} {a : Answer} (hs : s.Inv) (hengine : t.engine = s.engine)
    (hanswers : t.answers = s.answers ++ [a]) (hdata : a.dataOnlyWithOk = true)
    (herr : t.err = s.err ∨ a.isFault = true) : t.Inv where
  keyBound k hk := hs.keyBound k (hengine ▸ hk)
  errReported ht := by
    rw [hanswers]
    rcases herr with hkept | hfault
    · obtain ⟨b, hb, hbf⟩ := hs.errReported (hkept ▸ ht)
      exact ⟨b, List.mem_append_left _ hb, hbf⟩
    · exact ⟨a, List.mem_append_right _ (List.mem_singleton_self a), hfault⟩
  dataOk b hb := by
    rw [hanswers, List.mem_append, List.mem_singleton] at hb
    rcases hb with hb | rfl
    · exact hs.dataOk b hb
    · exact hdata

/-- The response of a fault carries no data (60_exceptions.md R173). -/
@[simp] theorem dataOnlyWithOk_resp_none (f : CmdFault) : (Answer.response f.resp none).dataOnlyWithOk = true := by
  cases f with
  | notReady => rfl
  | illegalCmd => rfl

/-- Settles O56: each kind of step is an update that keeps the invariant. -/
theorem stepKeepsTheInvariant : Obligations.StepKeepsTheInvariant := by
  unfold Obligations.StepKeepsTheInvariant
  intro s t hs h
  have taken : ∀ rest, State.Inv { s with pending := rest } := fun _ => hs.congr rfl rfl rfl
  have sampled : ∀ p rest, (present p { s with pending := rest }).Inv := fun _ _ => hs.congr rfl rfl rfl
  rcases step_next_cases h with ⟨-, rfl⟩ | ⟨rest, -, rfl⟩ | ⟨rest, -, rfl⟩ | ⟨p, rest, -, -, rfl⟩ |
    ⟨p, rest, d, -, -, rfl⟩ | ⟨p, rest, f, -, -, rfl⟩
  · exact hs
  · exact (taken rest).applyReset
  · exact hs.append_answer rfl rfl rfl (.inl rfl)
  · exact ((sampled p rest).bindKeys p.keyin).append_answer rfl rfl rfl (.inl rfl)
  · exact (sampled p rest).append_answer rfl rfl rfl (.inl rfl)
  · exact (sampled p rest).append_answer rfl rfl (dataOnlyWithOk_resp_none f) (.inr (isFault_resp f none))

/-- Settles O57: after reset no register holds a value, `ERR` is clear and nothing was answered. -/
theorem resetMeetsTheInvariant : Obligations.ResetMeetsTheInvariant := by
  unfold Obligations.ResetMeetsTheInvariant
  exact ⟨fun _ hk => (nomatch hk), fun ht => (nomatch ht), fun _ ha => (nomatch ha)⟩

/-! ### The registers hold all or nothing -/

/-- A register has no value exactly where `READY = 0`. -/
theorem roundKey_eq_none_iff (s : State) (i : Fin 16) : s.roundKey i = none ↔ s.ready = false := by
  cases h : s.engine with
  | uninit => exact iff_of_true (roundKey_of_uninit h i) ((ready_eq_false_iff s).2 h)
  | ready k => simp [roundKey_of_ready h, ready_eq_false_iff, h]

/-- A register has a value exactly where `READY = 1`. -/
theorem isSome_roundKey_iff (s : State) (i : Fin 16) : (s.roundKey i).isSome = true ↔ s.ready = true := by
  rw [Option.isSome_iff_ne_none, Ne, roundKey_eq_none_iff, Bool.not_eq_false]

/-- Settles O29: what holds of one register holds of all. -/
theorem registersHoldAllOrNothing : Obligations.RegistersHoldAllOrNothing := by
  unfold Obligations.RegistersHoldAllOrNothing
  simp only [roundKey_eq_none_iff, isSome_roundKey_iff, forall_const, implies_true, and_self]

/-! ### The engine after one move -/

/-- The engine after one host move (45_engine_commands.md R155): LOADKEY binds the schedule of `KEYIN`, reset discards
the keys, every other move leaves them. -/
def engineAfter (e : Engine) : HostMove → Engine
  | .command p => if p.cmd = 0x00#8 then .ready (keySchedule p.keyin) else e
  | .readStatus => e
  | .reset => .uninit

/-- A step performs the first move on the engine and takes it off the host's list. -/
theorem step_engine {s t : State} {m : HostMove} {rest : List HostMove} (hp : s.pending = m :: rest)
    (h : step s = .next t) : t.engine = engineAfter s.engine m ∧ t.pending = rest := by
  rcases step_next_cases h with ⟨hp', -⟩ | ⟨rest', hp', rfl⟩ | ⟨rest', hp', rfl⟩ | ⟨p, rest', hp', hw, rfl⟩ |
    ⟨p, rest', d, hp', hw, rfl⟩ | ⟨p, rest', f, hp', hw, rfl⟩
  · cases hp.symm.trans hp'
  all_goals cases hp.symm.trans hp'
  · exact ⟨rfl, rfl⟩
  · exact ⟨rfl, rfl⟩
  · exact ⟨(if_pos hw).symm, rfl⟩
  · exact ⟨(if_neg hw).symm, rfl⟩
  · exact ⟨(if_neg hw).symm, rfl⟩

/-- What one step does to the engine: a reset discards the keys, a LOADKEY binds new ones, every other step keeps
them. -/
theorem step_engine_cases {s t : State} (h : step s = .next t) :
    ((∃ rest, s.pending = .reset :: rest) ∧ t.engine = .uninit) ∨
    (∃ p rest, s.pending = .command p :: rest ∧ p.cmd = 0x00#8 ∧ t.engine = .ready (keySchedule p.keyin)) ∨
    t.engine = s.engine := by
  cases hp : s.pending with
  | nil =>
    cases (step_idle hp).symm.trans h
    exact .inr (.inr rfl)
  | cons m rest =>
    obtain ⟨he, -⟩ := step_engine hp h
    cases m with
    | reset => exact .inl ⟨⟨rest, rfl⟩, he⟩
    | readStatus => exact .inr (.inr he)
    | command p =>
      by_cases hw : p.cmd = 0x00#8
      · exact .inr (.inl ⟨p, rest, rfl, hw, he.trans (if_pos hw)⟩)
      · exact .inr (.inr (he.trans (if_neg hw)))

/-- `READY` is read off the engine. -/
theorem ready_congr {s t : State} (h : t.engine = s.engine) : t.ready = s.ready := by
  rw [State.ready, h, State.ready]

/-- The registers are read off the engine. -/
theorem roundKey_congr {s t : State} (h : t.engine = s.engine) (i : Fin 16) : t.roundKey i = s.roundKey i := by
  rw [State.roundKey, h, State.roundKey]

/-- Settles O55: a step that is neither a reset nor a LOADKEY keeps the engine, so `READY` and every register. -/
theorem onlyLoadkeyAndResetChangeKeys : Obligations.OnlyLoadkeyAndResetChangeKeys := by
  unfold Obligations.OnlyLoadkeyAndResetChangeKeys
  intro s t h hchange
  rcases step_engine_cases h with ⟨hreset, -⟩ | ⟨p, rest, hp, hw, -⟩ | hkept
  · exact .inl hreset
  · exact .inr ⟨p, rest, hp, hw⟩
  · rcases hchange with hready | ⟨i, hkey⟩
    · exact absurd (ready_congr hkept) hready
    · exact absurd (roundKey_congr hkept i) hkey

/-! ### Reset -/

/-- Only a reset takes `READY` back to 0 (R190). -/
theorem reset_of_ready_cleared {s t : State} (h : step s = .next t) (hs : s.ready = true) (ht : t.ready = false) :
    ∃ rest, s.pending = .reset :: rest := by
  rcases step_engine_cases h with ⟨hreset, -⟩ | ⟨p, rest, -, -, he⟩ | hkept
  · exact hreset
  · cases ((ready_eq_false_iff t).1 ht).symm.trans he
  · simp [ready_congr hkept, hs] at ht

/-- Settles O31: the step of a reset is `applyReset`; a register loses its value with `READY`, and `ERR` is sticky. -/
theorem resetIsTheOnlyWayBack : Obligations.ResetIsTheOnlyWayBack := by
  unfold Obligations.ResetIsTheOnlyWayBack
  refine ⟨fun s rest hp => ⟨_, step_reset hp, rfl, rfl, fun _ => rfl, rfl, rfl, rfl⟩, fun s t h hback => ?_⟩
  rcases hback with ⟨hs, ht⟩ | ⟨hs, ht⟩ | ⟨i, hs, ht⟩
  · exact reset_of_ready_cleared h hs ht
  · obtain ⟨-, -, -, errCleared, -⟩ := errIsSticky
    exact errCleared s t h hs ht
  · exact reset_of_ready_cleared h ((isSome_roundKey_iff s i).1 hs) ((roundKey_eq_none_iff t i).1 ht)

/-- Settles O32: the two states have the same state after the reset, so the same run from there. -/
theorem resetForgetsTheKey : Obligations.ResetForgetsTheKey := by
  unfold Obligations.ResetForgetsTheKey
  intro s e b rest n hp
  have hother : step { s with engine := e, err := b } = .next (applyReset { s with pending := rest }) :=
    step_reset (s := { s with engine := e, err := b }) hp
  rw [run_succ n hother, run_succ n (step_reset hp)]

/-- Settles O49: nothing pending is the idle case of `step`. -/
theorem idleKeepsTheState : Obligations.IdleKeepsTheState := by
  unfold Obligations.IdleKeepsTheState
  exact fun _ hp => step_idle hp

end Sys2Proof.Machine
end

section
/-! PROOFS. The tables and `permute` (40_table_store.md R97, 41_permute.md R103): `permute` over XOR, over the constant
values and over single bits. -/

namespace Sys2Proof.Machine

/-! ### The tables -/

/-- R97 (b): IP, FP and P name every input position once. -/
theorem permutationTables_perm :
    tableIP.entries.Perm (List.range' 1 64) ∧ tableFP.entries.Perm (List.range' 1 64) ∧
      tableP.entries.Perm (List.range' 1 32) := by decide

/-- R97: E reads sixteen positions twice and sixteen once. -/
theorem tableE_counts :
    ((List.range' 1 32).filter fun q => tableE.entries.count q = 2).length = 16 ∧
      ((List.range' 1 32).filter fun q => tableE.entries.count q = 1).length = 16 := by decide

/-- R97: PC-1 reads each position at most once and drops the parity positions. -/
theorem tablePC1_drops :
    tablePC1.entries.Nodup ∧ ∀ q ∈ List.range' 1 64, q ∉ tablePC1.entries ↔ q % 8 = 0 := by decide

/-- R97: PC-2 reads each position at most once and drops eight. -/
theorem tablePC2_drops :
    tablePC2.entries.Nodup ∧
      ∀ q ∈ List.range' 1 56, q ∉ tablePC2.entries ↔ q ∈ [9, 18, 22, 25, 35, 38, 43, 54] := by decide

/-- R97: the high half of a RoundKey is drawn from `C`, the low half from `D`. -/
theorem tablePC2_halves :
    (∀ q ∈ tablePC2.entries.take 24, q ≤ 28) ∧ ∀ q ∈ tablePC2.entries.drop 24, 29 ≤ q := by decide

/-- R88: every row of every S-box is a permutation of 0..15. -/
theorem sboxRows_perm (g : Fin 8) (row : Fin 4) :
    (sboxes[g][row].toList.map BitVec.toNat).Perm (List.range 16) := by
  revert g row
  decide

/-- Settles O6: the ranges are part of each table, the mutual inverses are `Undoes`, the rest is read off the tables. -/
theorem tablesHaveTheirStructure : Obligations.TablesHaveTheirStructure := by
  unfold Obligations.TablesHaveTheirStructure
  obtain ⟨hIP, hFP, hP⟩ := permutationTables_perm
  obtain ⟨hE2, hE1⟩ := tableE_counts
  obtain ⟨hPC1, hparity⟩ := tablePC1_drops
  obtain ⟨hPC2, hdropped⟩ := tablePC2_drops
  obtain ⟨hhigh, hlow⟩ := tablePC2_halves
  refine ⟨?range64, ?range32, tablePC2.inRange, hIP, hFP,
    fun i hi => ⟨undoes_tableIP_tableFP i hi, undoes_tableFP_tableIP i hi⟩, hP, tableE.length_eq, hE2, hE1,
    tablePC1.length_eq, hPC1, hparity, tablePC2.length_eq, hPC2, hdropped, hhigh, hlow, sboxRows_perm, rfl,
    by decide, rfl⟩
  case range64 =>
    exact List.forall_mem_append.2
      ⟨List.forall_mem_append.2 ⟨tableIP.inRange, tableFP.inRange⟩, tablePC1.inRange⟩
  case range32 => exact List.forall_mem_append.2 ⟨tableE.inRange, tableP.inRange⟩

/-! ### `permute` is linear -/

/-- The bits of a XOR, position by position. -/
theorem atPosition_xor {w : Nat} (a b : BitVec w) (q : Nat) :
    atPosition (a ^^^ b) q = (atPosition a q ^^ atPosition b q) := BitVec.getLsbD_xor

/-- `permute` commutes with XOR (R103 (a)). -/
theorem permute_xor {win wout : Nat} (T : PermTable win wout) (a b : BitVec win) :
    permute T (a ^^^ b) = permute T a ^^^ permute T b :=
  eq_of_atPosition_succ_eq fun i hi => by
    simp only [atPosition_xor, atPosition_permute_succ T _ hi]

/-- All zeros stay all zeros (R103 (b)). -/
theorem permute_zero {win wout : Nat} (T : PermTable win wout) : permute T 0 = 0 :=
  eq_of_atPosition_succ_eq fun i hi => by
    rw [atPosition_permute_succ T _ hi, atPosition, atPosition, BitVec.ofNat_eq_ofNat, BitVec.getLsbD_zero,
      BitVec.ofNat_eq_ofNat, BitVec.getLsbD_zero]

/-- All ones stay all ones: they are the complement of all zeros (R103 (b), (c)). -/
theorem permute_allOnes {win wout : Nat} (T : PermTable win wout) :
    permute T (BitVec.allOnes win) = BitVec.allOnes wout := by
  rw [← BitVec.not_zero, ← BitVec.ofNat_eq_ofNat, permute_not, permute_zero, BitVec.ofNat_eq_ofNat, BitVec.not_zero]

/-- The value whose one set bit is at position `q`. -/
theorem atPosition_twoPow {w p q : Nat} (hpw : p ≤ w) (hq : 1 ≤ q) (hqw : q ≤ w) :
    atPosition (BitVec.twoPow w (w - q)) p = decide (p = q) := by
  have hin : w - q < w := by omega
  have hiff : w - q = w - p ↔ p = q := by omega
  simp only [atPosition, BitVec.getLsbD_twoPow, hin, hiff, decide_true, Bool.true_and]

/-- Settles O8: each part is read position by position; every entry names an input position. -/
theorem permuteIsLinear : Obligations.PermuteIsLinear := by
  unfold Obligations.PermuteIsLinear
  refine fun win wout T a b => ⟨permute_xor T a b, permute_zero T, permute_allOnes T, permute_not T a,
    fun q hq hqw i hi => ?_⟩
  obtain ⟨-, hle⟩ := T.getD_inRange hi
  rw [atPosition_permute_succ T _ hi, atPosition_twoPow hle hq hqw]

end Sys2Proof.Machine
end

section
/-! PROOFS. The key schedule round by round (42_key_schedule.md R111, R112, R115, R116): a RoundKey is PC-2 of the two
halves after the first rotations, and these add up to one rotation. -/

namespace Sys2Proof.Machine

/-! ### The halves after each round -/

/-- A half of the key-schedule state after the first `r` rotations of R111. -/
def rotatedHalf (c : KeyHalf) (r : Nat) : KeyHalf := (shifts.take r).foldl rotl28 c

/-- One more round rotates by its entry of SHIFTS. -/
theorem rotatedHalf_succ (c : KeyHalf) {r : Nat} (hr : r < 16) :
    rotatedHalf c (r + 1) = rotl28 (rotatedHalf c r) (shifts.getD r 0) := by
  have hlen : r < shifts.length := hr
  rw [rotatedHalf, List.take_succ_eq_append_getElem hlen, List.foldl_append, List.getD_eq_getElem _ _ hlen]
  rfl

/-- The RoundKey of round `r` of the loop of R111, from the halves after its rotations. -/
theorem getElem_scheduleRounds (ns : List Nat) (c d : KeyHalf) (r : Nat) (hr : r < (scheduleRounds ns c d).length) :
    (scheduleRounds ns c d)[r] =
      permute tablePC2 ((ns.take (r + 1)).foldl rotl28 c ++ (ns.take (r + 1)).foldl rotl28 d) := by
  induction ns generalizing c d r with
  | nil => exact absurd hr (Nat.not_lt_zero r)
  | cons n ns ih =>
    cases r with
    | zero => rfl
    | succ r => exact ih _ _ r (Nat.lt_of_succ_lt_succ hr)

/-- RoundKey `r` is PC-2 of the halves after round `r` (R111). -/
theorem getElem_keySchedule (mk : MasterKey) {r : Nat} (hr : r < 16) :
    (keySchedule mk)[r] =
      permute tablePC2 (rotatedHalf (initialC mk) (r + 1) ++ rotatedHalf (initialD mk) (r + 1)) :=
  getElem_scheduleRounds shifts _ _ r hr

/-- Settles O11: the halves after each round are the witnesses. -/
theorem keyScheduleRotatesRoundOnRound : Obligations.KeyScheduleRotatesRoundOnRound := by
  unfold Obligations.KeyScheduleRotatesRoundOnRound
  exact fun mk => ⟨rotatedHalf (initialC mk), rotatedHalf (initialD mk), rfl, rfl,
    fun r hr => ⟨rotatedHalf_succ _ hr, rotatedHalf_succ _ hr, getElem_keySchedule mk hr⟩⟩

/-! ### The accumulated rotation -/

/-- `rotl28` by less than the width is the rotation of the library. -/
theorem rotl28_eq_rotateLeft (v : KeyHalf) {n : Nat} (hn : n < 28) : rotl28 v n = v.rotateLeft n := by
  rw [BitVec.rotateLeft_eq_rotateLeftAux_of_lt hn]
  rfl

/-- Each bit of a rotation comes from `n` places below, counted around the half. -/
theorem getLsbD_rotateLeft_eq (v : KeyHalf) (n : Nat) {i : Nat} (hi : i < 28) :
    (v.rotateLeft n).getLsbD i = v.getLsbD ((i + (28 - n % 28)) % 28) := by
  rw [BitVec.getLsbD_rotateLeft, decide_eq_true hi, Bool.true_and]
  by_cases h : i < n % 28
  · rw [decide_eq_true h, cond_true]
    congr 1
    omega
  · rw [decide_eq_false h, cond_false]
    congr 1
    omega

/-- Two rotations are one by the sum of the amounts. -/
theorem rotateLeft_rotateLeft (v : KeyHalf) (m n : Nat) : (v.rotateLeft m).rotateLeft n = v.rotateLeft (m + n) := by
  refine BitVec.eq_of_getLsbD_eq fun i hi => ?_
  rw [getLsbD_rotateLeft_eq _ _ hi, getLsbD_rotateLeft_eq _ _ (Nat.mod_lt _ (by decide)),
    getLsbD_rotateLeft_eq _ _ hi]
  congr 1
  omega

/-- No rotation. -/
theorem rotateLeft_zero (v : KeyHalf) : v.rotateLeft 0 = v :=
  BitVec.eq_of_getLsbD_eq fun i hi => by
    rw [getLsbD_rotateLeft_eq _ _ hi, Nat.zero_mod, Nat.sub_zero, Nat.add_mod_right, Nat.mod_eq_of_lt hi]

/-- Rotations by less than the width add up. -/
theorem foldl_rotl28 {ns : List Nat} (hns : ∀ n ∈ ns, n < 28) (c : KeyHalf) :
    ns.foldl rotl28 c = c.rotateLeft ns.sum := by
  induction ns generalizing c with
  | nil => exact (rotateLeft_zero c).symm
  | cons n ns ih =>
    obtain ⟨hn, hrest⟩ := List.forall_mem_cons.1 hns
    rw [List.foldl_cons, ih hrest, rotl28_eq_rotateLeft c hn, rotateLeft_rotateLeft, List.sum_cons]

/-- A half after round `r` is the half of PC-1, rotated once by the accumulated amount (R112). -/
theorem rotatedHalf_eq_rotateLeft (c : KeyHalf) (r : Nat) :
    rotatedHalf c (r + 1) = c.rotateLeft (totalShift r % 28) := by
  have hshifts : ∀ n ∈ shifts, n < 28 := by decide
  rw [rotatedHalf, foldl_rotl28 fun n hn => hshifts n (List.mem_of_mem_take hn), BitVec.rotateLeft_mod_eq_rotateLeft,
    totalShift]

/-- The sixteen rotations are a full turn (R112). -/
theorem rotatedHalf_sixteen (c : KeyHalf) : rotatedHalf c 16 = c := by
  have hturn : totalShift 15 % 28 = 0 := rfl
  rw [rotatedHalf_eq_rotateLeft c 15, hturn, rotateLeft_zero]

/-- Settles O12: every round's halves are rotated once, and a full turn leaves the output of PC-1. -/
theorem roundKeysFromAccumulatedShifts : Obligations.RoundKeysFromAccumulatedShifts := by
  unfold Obligations.RoundKeysFromAccumulatedShifts
  refine ⟨by decide, fun mk => ⟨fun r hr => ?_, ?_⟩⟩
  · rw [getElem_keySchedule mk hr, rotatedHalf_eq_rotateLeft, rotatedHalf_eq_rotateLeft, initialC, initialD]
  · have hsplit : initialC mk ++ initialD mk = permute tablePC1 mk := BitVec.extractLsb'_append_extractLsb'
    rw [getElem_keySchedule mk (by decide), rotatedHalf_sixteen, rotatedHalf_sixteen, hsplit]

/-! ### Complemented and corner-case keys -/

/-- Settles O14: the list of RoundKeys is complemented entry by entry. -/
theorem complementedKeyComplementsSchedule : Obligations.ComplementedKeyComplementsSchedule := by
  unfold Obligations.ComplementedKeyComplementsSchedule
  intro mk r hr
  have hnot : keySchedule (~~~mk) = (keySchedule mk).map (~~~·) :=
    Vector.toList_inj.1 ((keySchedule_not_toList mk).trans Vector.toList_map.symm)
  rw [hnot, Vector.getElem_map]

/-- The schedule of the all-zero key (R116 (a)). -/
theorem keySchedule_zero_toList : (keySchedule 0#64).toList = List.replicate 16 0#48 := by decide +kernel

/-- The schedule of the all-ones key, which complements the all-zero key (R116 (b)). -/
theorem keySchedule_allOnes_toList :
    (keySchedule 0xFFFFFFFFFFFFFFFF#64).toList = List.replicate 16 0xFFFFFFFFFFFF#48 := by
  rw [show 0xFFFFFFFFFFFFFFFF#64 = ~~~0#64 by decide, keySchedule_not_toList, keySchedule_zero_toList,
    List.map_replicate]
  rfl

/-- All the parity bits set or cleared change no schedule (R113). -/
theorem keySchedule_xor_parity (mk : MasterKey) : keySchedule (mk ^^^ 0x0101010101010101#64) = keySchedule mk :=
  parityBitsAreIgnored mk _ (by decide)

/-- Settles O15: the all-zero key is evaluated; all ones are its complement, and two keys differ from these in their
parity bits only; the reversed schedules and the single-bit key are evaluated. -/
theorem cornerKeySchedules : Obligations.CornerKeySchedules := by
  unfold Obligations.CornerKeySchedules
  have hparity : keySchedule 0x0101010101010101#64 = keySchedule 0#64 := keySchedule_xor_parity 0#64
  have hparity' : keySchedule 0xFEFEFEFEFEFEFEFE#64 = keySchedule 0xFFFFFFFFFFFFFFFF#64 :=
    keySchedule_xor_parity 0xFFFFFFFFFFFFFFFF#64
  refine ⟨keySchedule_zero_toList, ?_, keySchedule_allOnes_toList, ?_, ?reversed, ?singleBit⟩
  · rw [hparity, keySchedule_zero_toList]
  · rw [hparity', keySchedule_allOnes_toList]
  case reversed => decide +kernel
  case singleBit => decide +kernel

end Sys2Proof.Machine
end

section
/-! PROOFS. The substitution and the round function (43_round_function.md R122 to R129): the nibbles of the substitution,
and `f` as the XOR of what each nibble contributes. -/

namespace Sys2Proof.Machine

/-! ### The nibbles -/

/-- Nibble `g` of the substitution stands at indices `31 - 4g` to `28 - 4g` (R123): it is a base-16 digit of the
concatenation. -/
theorem extractLsb'_substitute (x : BitVec 48) (g : Fin 8) :
    (substitute x).extractLsb' (28 - 4 * g.val) 4 = nibble x g := by
  unfold substitute
  generalize nibble x = n
  apply BitVec.eq_of_toNat_eq
  rw [BitVec.extractLsb'_toNat, Nat.shiftRight_eq_div_pow]
  simp only [toNat_append_eq_add]
  match g with
  | 0 | 1 | 2 | 3 | 4 | 5 | 6 | 7 =>
    norm_num
    omega

/-- The row of a group is the number of its bits 5 and 0 (R123). -/
theorem val_sboxRow (six : BitVec 6) :
    (sboxRow six).val = 2 * (six.getLsbD 5).toNat + (six.getLsbD 0).toNat := by
  calc (BitVec.ofBool (six.getLsbD 5) ++ BitVec.ofBool (six.getLsbD 0)).toNat
    _ = 2 * (six.getLsbD 5).toNat + (six.getLsbD 0).toNat := by
      rw [toNat_append_eq_add, BitVec.toNat_ofBool, BitVec.toNat_ofBool, pow_one, Nat.mul_comm]

/-- Settles O17: the row and the column are fixed by their values, and nibble `g` is the cell of box `g` there. -/
theorem substitutionReadsItsCells : Obligations.SubstitutionReadsItsCells := by
  unfold Obligations.SubstitutionReadsItsCells
  intro x g row col hrow hcol
  obtain rfl : row = sboxRow (sixBits x g) := Fin.ext (hrow.trans (val_sboxRow _).symm)
  obtain rfl : col = sboxCol (sixBits x g) := Fin.ext hcol
  exact extractLsb'_substitute x g

/-! ### The mixed value -/

/-- Settles O18: two complements cancel in the mixed value, and `f` is a function of the mixed value. -/
theorem roundFunctionKeepsUnderComplement : Obligations.RoundFunctionKeepsUnderComplement := by
  unfold Obligations.RoundFunctionKeepsUnderComplement
  exact ⟨roundF_not_not, fun r r' k k' hmix => by rw [roundF, hmix, roundF]⟩

/-! ### Fused tables -/

/-- A nibble at its place among the 32 bits, all others clear. -/
def placedNibble (x : BitVec 48) (g : Fin 8) : Half := (nibble x g).setWidth 32 <<< (28 - 4 * g.val)

/-- The two parts of a concatenation do not overlap, so it is the XOR of the parts at their places. -/
theorem setWidth_append_eq_xor {v w k : Nat} (x : BitVec v) (y : BitVec w) :
    (x ++ y).setWidth k = x.setWidth k <<< w ^^^ y.setWidth k := by
  ext i hi
  rw [BitVec.getElem_setWidth, BitVec.getLsbD_append]
  by_cases h : i < w
  · simp [h]
  · simp [h, BitVec.getLsbD_of_ge y i (Nat.not_lt.1 h)]

/-- The substitution is the XOR of the placed nibbles. -/
theorem foldl_placedNibble (x : BitVec 48) :
    (List.finRange 8).foldl (fun acc g => acc ^^^ placedNibble x g) 0 = substitute x := by
  rw [← BitVec.setWidth_eq (substitute x), substitute]
  simp only [setWidth_append_eq_xor]
  simp [List.finRange, placedNibble, BitVec.shiftLeft_xor_distrib]

/-- `permute` of a XOR of many values is the XOR of the permuted values (41_permute.md R103 (a)). -/
theorem foldl_xor_permute {α : Type} {win wout : Nat} (T : PermTable win wout) (h : α → BitVec win) (l : List α)
    (v : BitVec win) :
    l.foldl (fun acc a => acc ^^^ permute T (h a)) (permute T v) = permute T (l.foldl (fun acc a => acc ^^^ h a) v) := by
  induction l generalizing v with
  | nil => rfl
  | cons a l ih => rw [List.foldl_cons, List.foldl_cons, ← permute_xor, ih]

/-- Settles O19: P is linear, so the XOR of the eight entries is P of the XOR of the placed nibbles. -/
theorem fusedRoundFunctionAgrees : Obligations.FusedRoundFunctionAgrees := by
  unfold Obligations.FusedRoundFunctionAgrees
  intro r k
  calc fusedRoundF r k
    _ = (List.finRange 8).foldl
        (fun acc g => acc ^^^ permute tableP (placedNibble (permute tableE r ^^^ k) g)) (permute tableP 0) := by
      rw [permute_zero]
      rfl
    _ = permute tableP (substitute (permute tableE r ^^^ k)) := by rw [foldl_xor_permute, foldl_placedNibble]

/-! ### Values -/

/-- Settles O20: ten evaluations of `f`. -/
theorem roundFunctionCornerCases : Obligations.RoundFunctionCornerCases := by
  unfold Obligations.RoundFunctionCornerCases
  decide +kernel

end Sys2Proof.Machine
end

section
/-! PROOFS. The block transform in the cases of R138, R139 and R142, and between swapped byte orders (R45). -/

namespace Sys2Proof.Machine

/-- Settles O22: R138 in its general form, and under the sixteen keys of a set. -/
theorem reversedKeysUndoTransform : Obligations.ReversedKeysUndoTransform := by
  unfold Obligations.ReversedKeysUndoTransform
  exact ⟨transform_transform_reverse, fun ks block =>
    ⟨transform_transform_reverse block ks.toList, transform_reverse_transform block ks.toList⟩⟩

/-- Settles O23: IP of the result is the pre-output, whose halves are those after one exchange, swapped. -/
theorem oneRoundKeepsTheRightHalf : Obligations.OneRoundKeepsTheRightHalf := by
  unfold Obligations.OneRoundKeepsTheRightHalf
  intro block k
  have hloop : feistel [k] (initialLeft block) (initialRight block) =
      (initialRight block, roundF (initialRight block) k ^^^ initialLeft block) := rfl
  constructor
  · calc initialRight (transform block [k])
      _ = initialRight block := by rw [transform, initialRight_finish, hloop]
  · calc initialLeft (transform block [k])
      _ = initialLeft block ^^^ roundF (initialRight block) k := by
        rw [transform, initialLeft_finish, hloop, BitVec.xor_comm]

/-! ### Values -/

/-- The result under one key (R142). -/
theorem transform_one_key_example :
    transform 0x0123456789ABCDEF#64 [0x1B02EFFC7072#48] = 0x4472457288EEDDEA#64 := by decide +kernel

/-- The results under sixteen all-zero keys (R142). -/
theorem transform_zero_keys_examples :
    transform 0x0123456789ABCDEF#64 (List.replicate 16 0#48) = 0x617B3A0CE8F07100#64 ∧
      transform 0#64 (List.replicate 16 0#48) = 0x8CA64DE9C1B123A7#64 := by decide +kernel

/-- The second known-answer vector (V2). -/
theorem transform_second_vector :
    transform 0x8787878787878787#64 (keySchedule 0x0E329232EA6D0D73#64).toList = 0#64 := by decide +kernel

/-- Equal keys in reverse order are the same keys, so the transform under them undoes itself. -/
theorem transform_transform_replicate (block : Block) (n : Nat) (k : RoundKey) :
    transform (transform block (List.replicate n k)) (List.replicate n k) = block := by
  simpa only [List.reverse_replicate] using transform_transform_reverse block (List.replicate n k)

/-- All ones under all-ones keys complement all zeros under all-zero keys (R141). -/
theorem transform_ones_example :
    transform 0xFFFFFFFFFFFFFFFF#64 (List.replicate 16 0xFFFFFFFFFFFF#48) = 0x7359B2163E4EDC58#64 := by
  calc transform (~~~0#64) ((List.replicate 16 0#48).map (~~~·))
    _ = ~~~0x8CA64DE9C1B123A7#64 := by rw [transform_not, transform_zero_keys_examples.2]

/-- Settles O25: four values and the two vectors are evaluated; the value back from all-zero keys and that of all ones
follow by R138 and R141. -/
theorem transformCornerCases : Obligations.TransformCornerCases := by
  unfold Obligations.TransformCornerCases
  obtain ⟨hzero, hzero'⟩ := transform_zero_keys_examples
  obtain ⟨-, -, -, hnone⟩ := process_partial_examples
  refine ⟨hnone, transform_one_key_example, hzero, ?_, hzero', transform_ones_example, transform_keySchedule_example,
    transform_second_vector⟩
  rw [← hzero, transform_transform_replicate]

/-! ### Byte order -/

/-- The swap of what a little-endian host holds for eight bytes is the port value of the bytes (R45). -/
theorem wrapValue_littleEndianValue (b : Vector Byte 8) : wrapValue true (littleEndianValue b) = valueOfBytes b := by
  rw [wrapValue, if_pos rfl, byteSwap, littleEndianValue, bytesOfValue_valueOfBytes, Vector.reverse_reverse]

/-- Settles O27: the swapped key and block are the port values of the byte strings, and the swapped result is what the
host holds for the result's bytes. -/
theorem swapOnAllThreeIsStandardDes : Obligations.SwapOnAllThreeIsStandardDes := by
  unfold Obligations.SwapOnAllThreeIsStandardDes
  intro key block
  rw [wrapValue_littleEndianValue, wrapValue_littleEndianValue]
  rfl

end Sys2Proof.Machine
end

section
/-! PROOFS. What a command leaves unchanged and does not read (10_state.md R30, R32; 20_memory.md R50; 30_encoding.md
R64), and PROCESS beside LOADKEY and a cipher command (45_engine_commands.md R153). -/

namespace Sys2Proof.Machine

/-! ### PROCESS -/

/-- PROCESS with `RC = 16` forward is encryption under the schedule of `KEYIN` (R153 (a)). -/
theorem transform_processKeys_forward (block : Block) (mk : MasterKey) :
    transform block (processKeys true 16#5 mk) = encryptBlock (keySchedule mk) block :=
  congrArg (transform block) (take_sixteen_keySchedule mk).1

/-- PROCESS with `RC = 16` in reverse is decryption under the schedule of `KEYIN` (R153 (a)). -/
theorem transform_processKeys_reverse (block : Block) (mk : MasterKey) :
    transform block (processKeys false 16#5 mk) = decryptBlock (keySchedule mk) block :=
  congrArg (transform block) (take_sixteen_keySchedule mk).2

/-- Settles O38: LOADKEY binds the schedule that PROCESS uses, and both use all of it. -/
theorem fullProcessEqualsLoadThenCipher : Obligations.FullProcessEqualsLoadThenCipher := by
  unfold Obligations.FullProcessEqualsLoadThenCipher
  intro s
  have hforward := exec_process_legal (rc := 16#5) true s (by decide)
  have hreverse := exec_process_legal (rc := 16#5) false s (by decide)
  rw [transform_processKeys_forward] at hforward
  rw [transform_processKeys_reverse] at hreverse
  exact ⟨_, _, _, _, _, _, _, hforward, rfl, hreverse, rfl, exec_loadkey s, exec_encrypt_ready rfl, rfl,
    exec_decrypt_ready rfl, rfl⟩

/-- Settles O39: the law of PROCESS reads the ports only. -/
theorem processIgnoresTheEngine : Obligations.ProcessIgnoresTheEngine := by
  unfold Obligations.ProcessIgnoresTheEngine
  intro s s' enc rc hports hrc
  have hblock : s.block = s'.block := congrArg Ports.din hports
  have hkey : s.masterKey = s'.masterKey := congrArg Ports.keyin hports
  refine ⟨_, _, _, exec_process_legal enc s hrc, exec_process_legal enc s' hrc, rfl, ?_, rfl, rfl, rfl, rfl⟩
  rw [hblock, hkey, deliver_answers]

/-! ### Ignored ports -/

/-- The same state with another value on `KEYIN`. -/
def withKeyin (x : MasterKey) (s : State) : State := { s with ports := { s.ports with keyin := x } }

/-- ENCRYPT and DECRYPT do not read `KEYIN` (R64). -/
theorem withStoredKeys_withKeyin (c : RoundKeySet → Block → Block) (x : MasterKey) (s : State) :
    withStoredKeys c (withKeyin x s) = withKeyin x (withStoredKeys c s) := by
  rcases withStoredKeys_cases c s with ⟨he, hs⟩ | ⟨k, he, hs⟩
  · exact hs ▸ withStoredKeys_uninit c he
  · exact hs ▸ withStoredKeys_ready c he

/-- The shared part of ENCRYPT and DECRYPT leaves the ports. -/
theorem withStoredKeys_ports (c : RoundKeySet → Block → Block) (s : State) :
    (withStoredKeys c s).ports = s.ports := by
  rcases withStoredKeys_cases c s with ⟨-, hs⟩ | ⟨k, -, hs⟩
  · rw [hs, raise_ports]
  · rw [hs, deliver_ports]

/-- Settles O41: LOADKEY reads `KEYIN` alone, ENCRYPT and DECRYPT read `DIN` alone. -/
theorem ignoredPortsHaveNoEffect : Obligations.IgnoredPortsHaveNoEffect := by
  unfold Obligations.IgnoredPortsHaveNoEffect
  refine fun s x => ⟨⟨_, _, exec_loadkey s, exec_loadkey _, rfl⟩, fun i hi => ?_⟩
  have hkeyin : ∀ c, withStoredKeys c (withKeyin x s) =
      { withStoredKeys c s with ports := { s.ports with keyin := x } } := fun c => by
    rw [withStoredKeys_withKeyin, withKeyin, withStoredKeys_ports]
  rcases hi with rfl | rfl
  · exact ⟨_, _, rfl, rfl, hkeyin encryptBlock⟩
  · exact ⟨_, _, rfl, rfl, hkeyin decryptBlock⟩

/-! ### The frame -/

/-- Settles O42: LOADKEY writes the engine, a fault writes `ERR`, and a delivery writes the answers alone. -/
theorem commandFrames : Obligations.CommandFrames := by
  unfold Obligations.CommandFrames
  intro i s t h
  rcases exec_cases i s with ⟨rfl, he⟩ | ⟨d, hi, he⟩ | ⟨f, hi, he⟩
  all_goals cases he.symm.trans h
  · exact ⟨rfl, rfl, fun hne => absurd rfl hne, fun _ => rfl, .inl rfl, _, _, rfl⟩
  · exact ⟨rfl, rfl, fun _ => ⟨rfl, rfl, fun _ => rfl⟩, fun heq => absurd heq hi, .inl rfl, _, _, rfl⟩
  · exact ⟨rfl, rfl, fun _ => ⟨rfl, rfl, fun _ => rfl⟩, fun heq => absurd heq hi, .inr ⟨rfl, _, rfl, isFault_resp f none⟩,
      _, _, rfl⟩

/-! ### Commands that write no key -/

/-- The state after an answer: the host has it, and `ERR` is set if it reports a fault. -/
def answered (a : Answer) (s : State) : State := { s with err := s.err || a.isFault, answers := s.answers ++ [a] }

/-- A delivery with `OK` reports no fault. -/
theorem deliver_ok_eq_answered (d : Option Block) (s : State) : deliver .ok d s = answered (.response .ok d) s := by
  simp [deliver, answered, Answer.isFault]

/-- A fault is answered by its response. -/
theorem raise_eq_answered (f : CmdFault) (s : State) : raise f s = answered (.response f.resp none) s := by
  simp [raise, deliver, setErr, answered]

/-- What ENCRYPT and DECRYPT answer is fixed by the engine and the ports, and giving it is all that they do. -/
theorem exists_withStoredKeys_eq_answered (c : RoundKeySet → Block → Block) (e : Engine) (p : Ports) :
    ∃ a, ∀ s : State, s.engine = e → s.ports = p → withStoredKeys c s = answered a s := by
  cases e with
  | uninit => exact ⟨_, fun s he _ => (withStoredKeys_uninit c he).trans (raise_eq_answered .notReady s)⟩
  | ready k =>
    exact ⟨.response .ok (some (c k p.din)), fun s he hp => by
      rw [withStoredKeys_ready c he, deliver_ok_eq_answered, State.block, hp]⟩

/-- The answer of a command other than LOADKEY is fixed by the engine and the ports, and giving it is all that the command
does. -/
theorem exists_exec_eq_answered {i : Instr} (hi : i ≠ .loadkey) (e : Engine) (p : Ports) :
    ∃ a, ∀ s : State, s.engine = e → s.ports = p → exec i s = .next (answered a s) := by
  cases i with
  | loadkey => exact absurd rfl hi
  | encrypt =>
    obtain ⟨a, ha⟩ := exists_withStoredKeys_eq_answered encryptBlock e p
    exact ⟨a, fun s he hp => congrArg Host.Outcome.next (ha s he hp)⟩
  | decrypt =>
    obtain ⟨a, ha⟩ := exists_withStoredKeys_eq_answered decryptBlock e p
    exact ⟨a, fun s he hp => congrArg Host.Outcome.next (ha s he hp)⟩
  | process enc rc =>
    by_cases hrc : rc.toNat ≤ 16
    · exact ⟨.response .ok (some (transform p.din (processKeys enc rc p.keyin))), fun s _ hp => by
        rw [exec_process_legal enc s hrc, deliver_ok_eq_answered, State.block, State.masterKey, hp]⟩
    · exact ⟨_, fun s _ _ => (exec_process_illegal enc s (Nat.lt_of_not_le hrc)).trans
        (congrArg _ (raise_eq_answered _ s))⟩

/-- Settles O43: LOADKEY binds the same schedule again; any other command meets the engine and the ports it met before. -/
theorem repeatingACommandChangesNothing : Obligations.RepeatingACommandChangesNothing := by
  unfold Obligations.RepeatingACommandChangesNothing
  intro i s t h
  by_cases hi : i = .loadkey
  · subst hi
    cases (exec_loadkey s).symm.trans h
    exact ⟨_, _, exec_loadkey _, rfl, rfl, rfl, rfl⟩
  · obtain ⟨a, ha⟩ := exists_exec_eq_answered hi s.engine s.ports
    cases (ha s rfl rfl).symm.trans h
    have herr : ((s.err || a.isFault) || a.isFault) = (s.err || a.isFault) := by
      rw [Bool.or_assoc, Bool.or_self]
    exact ⟨_, a, ha (answered a s) rfl rfl, rfl, rfl, rfl, herr⟩

end Sys2Proof.Machine
end

section
/-! PROOFS. Sequences of commands (20_memory.md R52; 45_engine_commands.md R152, R155): two transactions in a row, and
what is left of a history of host moves. -/

namespace Sys2Proof.Machine

/-! ### Exchanged commands -/

/-- The answer to a transaction other than LOADKEY's is fixed by the engine and the ports presented. -/
theorem exists_step_eq_answered {p : Ports} (hw : p.cmd ≠ 0x00#8) (e : Engine) :
    ∃ a, ∀ (s : State) (rest : List HostMove), s.engine = e → s.pending = .command p :: rest →
      step s = .next (answered a (present p { s with pending := rest })) := by
  cases hd : decode p.cmd with
  | instr i =>
    have hi : i ≠ .loadkey := fun h => hw ((decode_eq_loadkey_iff _).1 (h ▸ hd))
    obtain ⟨a, ha⟩ := exists_exec_eq_answered hi e p
    exact ⟨a, fun s rest he hp => (step_instr hp hd).trans (ha _ he rfl)⟩
  | reserved r =>
    exact ⟨_, fun s rest _ hp => (step_reserved hp hd).trans (congrArg _ (raise_eq_answered _ _))⟩

/-- Settles O53: both orders give each transaction the answer fixed by the same engine. -/
theorem commandsThatChangeNothingCommute : Obligations.CommandsThatChangeNothingCommute := by
  unfold Obligations.CommandsThatChangeNothingCommute
  intro s p q rest a b t hpw hqw hp hrun hans
  obtain ⟨ap, hap⟩ := exists_step_eq_answered hpw s.engine
  obtain ⟨aq, haq⟩ := exists_step_eq_answered hqw s.engine
  have hrun' := (run_succ 1 (hap s _ rfl hp)).trans (run_succ 0 (haq _ rest rfl rfl))
  cases hrun'.symm.trans hrun
  have hanswers : [ap, aq] = [.response .ok (some a), .response .ok (some b)] :=
    List.append_cancel_left ((List.append_assoc s.answers [ap] [aq]).symm.trans hans)
  obtain ⟨rfl, rfl⟩ : ap = .response .ok (some a) ∧ aq = .response .ok (some b) := by simpa using hanswers
  have hfirst := haq { s with pending := .command q :: .command p :: rest } _ rfl rfl
  exact ⟨_, (run_succ 1 hfirst).trans (run_succ 0 (hap _ rest rfl rfl)), List.append_assoc s.answers [_] [_],
    rfl, rfl, rfl⟩

/-! ### A cipher command after another command -/

/-- A transaction of the word `w` runs the cipher `c` on `DIN` under the stored keys. -/
def RunsCipher (w : CmdWord) (c : RoundKeySet → Block → Block) : Prop :=
  ∀ (s : State) (p : Ports) (rest : List HostMove), s.pending = .command p :: rest → p.cmd = w →
    step s = .next (withStoredKeys c (present p { s with pending := rest }))

/-- 0x40 is ENCRYPT (R151). -/
theorem runsCipher_encrypt : RunsCipher 0x40#8 encryptBlock := fun _ _ _ hp hw =>
  step_instr hp ((decode_eq_encrypt_iff _).2 hw)

/-- 0x80 is DECRYPT (R152). -/
theorem runsCipher_decrypt : RunsCipher 0x80#8 decryptBlock := fun _ _ _ hp hw =>
  step_instr hp ((decode_eq_decrypt_iff _).2 hw)

/-- With a key, a cipher command delivers its result. -/
theorem RunsCipher.step_ready {w : CmdWord} {c : RoundKeySet → Block → Block} (hc : RunsCipher w c) {s : State}
    {k : RoundKeySet} {p : Ports} {rest : List HostMove} (hk : s.engine = .ready k)
    (hp : s.pending = .command p :: rest) (hw : p.cmd = w) :
    step s = .next (deliver .ok (some (c k p.din)) (present p { s with pending := rest })) :=
  (hc s p rest hp hw).trans (congrArg Host.Outcome.next (withStoredKeys_ready c hk))

/-- The step of a LOADKEY transaction. -/
theorem step_loadkey {s : State} {p : Ports} {rest : List HostMove} (hp : s.pending = .command p :: rest)
    (hw : p.cmd = 0x00#8) :
    step s = .next (deliver .ok none (bindKeys (keySchedule p.keyin) (present p { s with pending := rest }))) :=
  (step_instr hp ((decode_eq_loadkey_iff _).2 hw)).trans (exec_loadkey _)

/-- A cipher command right after a LOADKEY uses the new key (R52 (a)). -/
theorem RunsCipher.run_loadkey {w : CmdWord} {c : RoundKeySet → Block → Block} (hc : RunsCipher w c) {s : State}
    {p q : Ports} {rest : List HostMove} (hp : s.pending = .command p :: .command q :: rest) (hpw : p.cmd = 0x00#8)
    (hqw : q.cmd = w) :
    ∃ t, Host.Core.run core 2 s = .next t ∧ t.pending = rest ∧
      t.answers = s.answers ++ [.response .ok none, .response .ok (some (c (keySchedule p.keyin) q.din))] := by
  have hload := step_loadkey hp hpw
  generalize ht : deliver .ok none _ = t at hload
  have hk : t.engine = .ready (keySchedule p.keyin) := by rw [← ht]; rfl
  have hq : t.pending = .command q :: rest := by rw [← ht]; rfl
  have hans : t.answers = s.answers ++ [.response .ok none] := by rw [← ht]; rfl
  refine ⟨_, (run_succ 1 hload).trans (run_succ 0 (hc.step_ready hk hq hqw)), rfl, ?_⟩
  rw [deliver_answers, present_answers, hans, List.append_assoc, List.singleton_append]

/-- Settles O51: both cipher commands meet the engine that the LOADKEY left. -/
theorem nextCommandUsesTheNewKey : Obligations.NextCommandUsesTheNewKey := by
  unfold Obligations.NextCommandUsesTheNewKey
  intro s mk x y b rest
  exact ⟨fun hp => runsCipher_encrypt.run_loadkey (p := ⟨0x00#8, x, mk⟩) (q := ⟨0x40#8, b, y⟩) hp rfl rfl,
    fun hp => runsCipher_decrypt.run_loadkey (p := ⟨0x00#8, x, mk⟩) (q := ⟨0x80#8, b, y⟩) hp rfl rfl⟩

/-- Of two ciphers where the second undoes the first, the second command delivers the block of the first. -/
theorem RunsCipher.step_step_undo {w w' : CmdWord} {c c' : RoundKeySet → Block → Block} (hc : RunsCipher w c)
    (hc' : RunsCipher w' c') (hundo : ∀ k b, c' k (c k b) = b) {s : State} {p q : Ports} {rest : List HostMove}
    (hready : s.ready = true) (hp : s.pending = .command p :: .command q :: rest) (hpw : p.cmd = w) (hqw : q.cmd = w') :
    ∃ t u d, step s = .next t ∧ t.answers = s.answers ++ [.response .ok (some d)] ∧
      (d = q.din → step t = .next u ∧ u.answers = t.answers ++ [.response .ok (some p.din)]) := by
  obtain ⟨k, hk⟩ := (ready_eq_true_iff s).1 hready
  refine ⟨_, _, c k p.din, hc.step_ready hk hp hpw, rfl, fun hd => ⟨hc'.step_ready hk rfl hqw, ?_⟩⟩
  rw [deliver_answers, ← hd, hundo]
  rfl

/-- Settles O52: ENCRYPT and DECRYPT undo each other under one RoundKeySet. -/
theorem decryptReturnsTheEncryptedBlock : Obligations.DecryptReturnsTheEncryptedBlock := by
  unfold Obligations.DecryptReturnsTheEncryptedBlock
  rintro s b c x y w w' rest hready (⟨rfl, rfl⟩ | ⟨rfl, rfl⟩) hp
  · exact runsCipher_encrypt.step_step_undo runsCipher_decrypt (fun k b => transform_transform_reverse b k.toList)
      hready hp rfl rfl
  · exact runsCipher_decrypt.step_step_undo runsCipher_encrypt (fun k b => transform_reverse_transform b k.toList)
      hready hp rfl rfl

/-! ### Histories -/

/-- The engine of a block that has bound a key, or none, since the last reset. -/
def engineOfKey : Option MasterKey → Engine
  | none => .uninit
  | some mk => .ready (keySchedule mk)

/-- One more move on the engine is that move on the bound key. -/
theorem engineAfter_engineOfKey (key : Option MasterKey) (m : HostMove) :
    engineAfter (engineOfKey key) m = engineOfKey (keyAfter key m) := by
  cases m with
  | command p =>
    by_cases hw : p.cmd = 0x00#8
    · rw [engineAfter, if_pos hw, keyAfter, if_pos hw, engineOfKey]
    · rw [engineAfter, if_neg hw, keyAfter, if_neg hw]
  | readStatus => rfl
  | reset => rfl

/-- Moves from reset leave the engine of the key they bind (R155). -/
theorem foldl_engineAfter_uninit (moves : List HostMove) :
    moves.foldl engineAfter .uninit = engineOfKey (boundKey moves) :=
  List.foldl_hom (init := none) engineOfKey engineAfter_engineOfKey

/-- A run over the first moves of the host's list leaves the others pending and the engine that those moves make. -/
theorem run_moves (moves : List HostMove) {rest : List HostMove} {s : State} (hp : s.pending = moves ++ rest) :
    ∃ t, t.pending = rest ∧ t.engine = moves.foldl engineAfter s.engine ∧
      ∀ n, Host.Core.run core (moves.length + n) s = Host.Core.run core n t := by
  induction moves generalizing s with
  | nil => exact ⟨s, hp, rfl, fun n => by rw [List.length_nil, Nat.zero_add]⟩
  | cons m moves ih =>
    obtain ⟨s', hs⟩ := exists_step_next s
    obtain ⟨he, hp'⟩ := step_engine hp hs
    obtain ⟨t, htp, hte, hrun⟩ := ih hp'
    refine ⟨t, htp, hte.trans (by rw [he, List.foldl_cons]), fun n => ?_⟩
    rw [List.length_cons, Nat.add_right_comm, run_succ _ hs, hrun]

/-- What a cipher command answers by the bound key (R155). -/
def answerByKey (c : RoundKeySet → Block → Block) (b : Block) : Option MasterKey → Answer
  | some mk => .response .ok (some (c (keySchedule mk) b))
  | none => .response .notReady none

/-- ENCRYPT and DECRYPT answer by the bound key. -/
theorem getLast?_withStoredKeys (c : RoundKeySet → Block → Block) {s : State} {key : Option MasterKey}
    (he : s.engine = engineOfKey key) : (withStoredKeys c s).answers.getLast? = some (answerByKey c s.block key) := by
  cases key with
  | none =>
    rw [withStoredKeys_uninit c he, raise_answers, List.getLast?_concat]
    rfl
  | some mk =>
    rw [withStoredKeys_ready c he, deliver_answers, List.getLast?_concat]
    rfl

/-- Settles O54: the moves leave the engine of the bound key; ENCRYPT and DECRYPT answer by it, PROCESS by its ports. -/
theorem historyMattersOnlyThroughTheKey : Obligations.HistoryMattersOnlyThroughTheKey := by
  unfold Obligations.HistoryMattersOnlyThroughTheKey
  intro moves p
  obtain ⟨s, hsp, hse, hrun⟩ := run_moves moves (rest := [.command p])
    (s := { State.reset with pending := moves ++ [.command p] }) rfl
  have hengine : s.engine = engineOfKey (boundKey moves) := hse.trans (foldl_engineAfter_uninit moves)
  obtain ⟨t, ht⟩ := exists_step_next s
  have hcipher : ∀ {w c}, RunsCipher w c → p.cmd = w →
      t.answers.getLast? = some (answerByKey c p.din (boundKey moves)) := fun hc hw => by
    cases (hc s p [] hsp hw).symm.trans ht
    exact getLast?_withStoredKeys _ hengine
  refine ⟨t, (hrun 1).trans (run_succ 0 ht), (step_engine hsp ht).2, hcipher runsCipher_encrypt,
    hcipher runsCipher_decrypt, fun enc rc hw hrc => ?_⟩
  have hd : decode p.cmd = .instr (.process enc rc) := hw ▸ decode_encode_process hrc
  cases ((step_instr hsp hd).trans (exec_process_legal enc _ hrc)).symm.trans ht
  exact List.getLast?_concat

end Sys2Proof.Machine
end
